-- ==== Sys2Proof/Word.lean ====
section
/-! DEFINITION. The fixed widths of the block (R5, R7): bytes, command and port words, key lengths, and the two
256-byte arrays. All values are unsigned; `BitVec` addition is addition reduced mod 2^width (R8). -/

namespace Sys2Proof

/-- `BYTE` (R5): an entry of S, a key byte, a message byte, an 8-bit index. -/
abbrev Byte := BitVec 8

/-- A command word and the port's data (R5, R70). -/
abbrev Word := BitVec 32

/-- The 9-bit registers KLEN and KI, and the N field (R24, R25, R71). -/
abbrev Count := BitVec 9

/-- The host port's 3-bit address (R5, R50). -/
abbrev PortAddr := BitVec 3

/-- A fixed array of 256 bytes, indexed 0..255: S (R21) and KEY (R23). -/
abbrev Bytes256 := Vector Byte 256

end Sys2Proof
end

