-- ==== Sys2Proof/Syntax.lean ====
section
/-! DEFINITION. The command set as syntax: the ten opcodes, the instructions with their operands (R74, opcode_table.json),
what decoding a word can answer (R75), and the assembler's and the host program's lines (R79 to R81). -/

namespace Sys2Proof

/-- The ten legal opcodes (R74). -/
inductive Op where
  | nop | clr | keywr | keylen | keyrd | ksainit | ksastep | ksa | xorb | srd
deriving DecidableEq, Repr

/-- The five word formats (R72). -/
inductive Format where
  | f0 | fa | fn | fd | fad
deriving DecidableEq, Repr

/-- One command with its operands; one constructor per row of the opcode table (R74). Every operand has exactly the width of
its field (R71), so every term is well formed. -/
inductive Instr where
  /-- NOP (R160). -/
  | nop
  /-- CLR (R161): soft reset. -/
  | clr
  /-- KEYWR a, d (R100): write key byte `a`. -/
  | keywr (a d : Byte)
  /-- KEYLEN n (R101): set the key length. -/
  | keylen (n : Count)
  /-- KEYRD a (R102): read key byte `a` into DOUT. -/
  | keyrd (a : Byte)
  /-- KSAINIT (R121): start a key schedule. -/
  | ksainit
  /-- KSASTEP (R123): one iteration of the key schedule. -/
  | ksastep
  /-- KSA (R124): the whole key schedule. -/
  | ksa
  /-- XORB d (R142): combine one message byte with the next keystream byte. -/
  | xorb (d : Byte)
  /-- SRD a (R162): read entry `a` of S into DOUT. -/
  | srd (a : Byte)
deriving DecidableEq, Repr

/-- The three outcomes of decoding a word (R75). -/
inductive Decoded where
  /-- The opcode is none of the ten (R76). -/
  | illegal
  /-- A legal opcode with a 1 in a reserved bit (R77). -/
  | reserved (op : Op)
  /-- A command. -/
  | instr (i : Instr)
deriving DecidableEq, Repr

/-- One line of assembler text (R79) or a pseudo-instruction (R80), its numbers as written, in range or not. -/
inductive AsmLine where
  | nop
  | clr
  | keywr (a d : Nat)
  | keylen (n : Nat)
  | keyrd (a : Nat)
  | ksainit
  | ksastep
  | ksa
  | xorb (d : Nat)
  | srd (a : Nat)
  /-- `KSGEN` stands for `XORB 0` (R80). -/
  | ksgen
  /-- `LOADKEY b0, ..., b(n-1)` (R80). -/
  | loadkey (bytes : List Nat)
  /-- `LOADKEY128 K` (R80). -/
  | loadkey128 (k : Nat)
deriving DecidableEq, Repr

/-- The port registers a host program's `rd` line names (R81). -/
inductive PortReg where
  | status | dout | kidx | pidx | id
deriving DecidableEq, Repr

/-- One line of a host program (R81). -/
inductive HostLine where
  | command (line : AsmLine)
  | rd (reg : PortReg)
deriving DecidableEq, Repr

end Sys2Proof
end

