-- ==== Sys2Proof/WellFormed.lean ====
section
/-! DEFINITION. Which assembler lines are well formed: the operand ranges of R79 and R80. An `Instr` needs no check: each of
its operands has exactly its field's width (R71), and `KEYLEN n` with `n` in 257..511 is an encodable command that raises
E_KLEN_RANGE when it runs (R79, R101). -/

namespace Sys2Proof

/-- An operand written to an 8-bit field, `a` or `d` of R79: 0..255. -/
def byteOperand (n : Nat) : Bool := n < 256

/-- "An assembler refuses an operand outside its range" (R79); LOADKEY takes 1 to 256 bytes and LOADKEY128 a 128-bit value
(R80). -/
def AsmLine.wellFormed : AsmLine → Bool
  | .nop | .clr | .ksainit | .ksastep | .ksa | .ksgen => true
  | .keywr a d => byteOperand a && byteOperand d
  | .keylen n => n < 512
  | .keyrd a => byteOperand a
  | .xorb d => byteOperand d
  | .srd a => byteOperand a
  | .loadkey bytes => 1 ≤ bytes.length && bytes.length ≤ 256 && bytes.all byteOperand
  | .loadkey128 k => k < 2 ^ 128

end Sys2Proof
end

