-- ==== Sys2Proof/Decode.lean ====
section
/-! DEFINITION. The encoding tables (R71 to R74), the total decoder (R75 to R77), and the encoder written from the same
tables. -/

namespace Sys2Proof

/-! ## Fields of a command word (R71, R73) -/

/-- OP: `w[31:24]`. -/
def opField (w : Word) : Byte := w.extractLsb' 24 8

/-- A: `w[23:16]`. -/
def aField (w : Word) : Byte := w.extractLsb' 16 8

/-- N: `w[8:0]`. -/
def nField (w : Word) : Count := w.extractLsb' 0 9

/-- D: `w[7:0]`. -/
def dField (w : Word) : Byte := w.extractLsb' 0 8

/-! ## The opcode table (R72, R74) -/

/-- The OP byte of each opcode (R74). -/
def Op.code : Op → Byte
  | .nop => 0x00#8
  | .clr => 0x01#8
  | .keywr => 0x10#8
  | .keylen => 0x11#8
  | .keyrd => 0x12#8
  | .ksainit => 0x20#8
  | .ksastep => 0x21#8
  | .ksa => 0x22#8
  | .xorb => 0x30#8
  | .srd => 0x40#8

/-- The format of each opcode (R72, R74). -/
def Op.format : Op → Format
  | .nop | .clr | .ksainit | .ksastep | .ksa => .f0
  | .keyrd | .srd => .fa
  | .keylen => .fn
  | .xorb => .fd
  | .keywr => .fad

/-- A 1 at every opcode bit and every reserved bit (R72). -/
def Format.mask : Format → Word
  | .f0 => 0xFFFFFFFF#32
  | .fa => 0xFF00FFFF#32
  | .fn => 0xFFFFFE00#32
  | .fd => 0xFFFFFF00#32
  | .fad => 0xFF00FF00#32

/-- `mask(op)` (R72, R74). -/
def Op.mask (op : Op) : Word := op.format.mask

/-- `match(op)` (R74): the opcode byte and zeros. -/
def Op.matchWord (op : Op) : Word := op.code.setWidth 32 <<< 24

/-- The opcode an OP byte spells, if it is one of the ten (R74); the other 246 values are illegal (R76). -/
def opOfCode (c : Byte) : Option Op :=
  match c.toNat with
  | 0x00 => some .nop
  | 0x01 => some .clr
  | 0x10 => some .keywr
  | 0x11 => some .keylen
  | 0x12 => some .keyrd
  | 0x20 => some .ksainit
  | 0x21 => some .ksastep
  | 0x22 => some .ksa
  | 0x30 => some .xorb
  | 0x40 => some .srd
  | _ => none

/-- The command an opcode and the word's fields make (R73, R75). -/
def Op.instr (op : Op) (w : Word) : Instr :=
  match op with
  | .nop => .nop
  | .clr => .clr
  | .keywr => .keywr (aField w) (dField w)
  | .keylen => .keylen (nField w)
  | .keyrd => .keyrd (aField w)
  | .ksainit => .ksainit
  | .ksastep => .ksastep
  | .ksa => .ksa
  | .xorb => .xorb (dField w)
  | .srd => .srd (aField w)

/-- Whether a word has a 1 in a reserved bit of `op`'s format (R75, R77). -/
def hasReservedBit (op : Op) (w : Word) : Bool :=
  w &&& (op.mask &&& 0x00FFFFFF#32) != 0#32

/-- `Decode(w)` (R75): total over all 2^32 words. -/
def decode (w : Word) : Decoded :=
  match opOfCode (opField w) with
  | none => .illegal
  | some op => if hasReservedBit op w then .reserved op else .instr (op.instr w)

/-! ## The encoder (R72, R74) -/

/-- A command's opcode. -/
def Instr.op : Instr → Op
  | .nop => .nop
  | .clr => .clr
  | .keywr _ _ => .keywr
  | .keylen _ => .keylen
  | .keyrd _ => .keyrd
  | .ksainit => .ksainit
  | .ksastep => .ksastep
  | .ksa => .ksa
  | .xorb _ => .xorb
  | .srd _ => .srd

/-- An index put in the A field's place, `w[23:16]`. -/
def inA (a : Byte) : Word := a.setWidth 32 <<< 16

/-- A length put in the N field's place, `w[8:0]`. -/
def inN (n : Count) : Word := n.setWidth 32

/-- A byte put in the D field's place, `w[7:0]`. -/
def inD (d : Byte) : Word := d.setWidth 32

/-- The word of a command: its opcode and its operands in its format's places, zeros elsewhere (R72, R79). -/
def encode (i : Instr) : Word :=
  match i with
  | .nop => Op.nop.matchWord
  | .clr => Op.clr.matchWord
  | .keywr a d => Op.keywr.matchWord ||| inA a ||| inD d
  | .keylen n => Op.keylen.matchWord ||| inN n
  | .keyrd a => Op.keyrd.matchWord ||| inA a
  | .ksainit => Op.ksainit.matchWord
  | .ksastep => Op.ksastep.matchWord
  | .ksa => Op.ksa.matchWord
  | .xorb d => Op.xorb.matchWord ||| inD d
  | .srd a => Op.srd.matchWord ||| inA a

/-! ## The host's table words -/

/-- A table word as the command word the host writes: its low `nbits` bits, zeros above. -/
def tableWord (nbits w : Nat) : Word := BitVec.ofNat 32 (w % 2 ^ nbits)

/-- What the decoder reads from an instruction whose bits are `w`, numbered as the opcode table numbers them: a command is one
32-bit word (R70), so the table's bits are the word's. -/
def decodeTableWord (nbits w : Nat) : Option Instr :=
  match decode (tableWord nbits w) with
  | .instr i => some i
  | .reserved _ => none
  | .illegal => none

end Sys2Proof
end

