-- ==== Sys2Proof/Config.lean ====
section
/-! DEFINITION. The block's fixed parameters (R5) and its one free value: the content of S after a reset (R21, R211). -/

namespace Sys2Proof

/-- `KEY_MAX` (R5): the largest key length KEYLEN accepts (R101). -/
def Config.keyMax : Nat := 256

/-- The constant the ID register reads (R1, R55): the bytes "R", "C", "4" and version 1. -/
def Config.idWord : Word := 0x52433401#32

/-- FREE VALUE. `S_RESET` (R21, R211, I6): the content of S after the `n`-th reset through the `rst` input, any 256 bytes.
It has no body: nothing can be proved of its value (log entry 2). -/
opaque Config.sReset : Nat → Bytes256

end Sys2Proof
end

