-- ==== Sys2Proof/Machine/State.lean ====
section
/-! DEFINITION. The block's state (R20), what the host may do to it, and the reasons a step of the model can stop. -/

namespace Sys2Proof.Machine

/-- PHASE (R26), "a 2-bit register with three values"; the value 3 is never held (R26, R30 (a), I10; log entry 7). -/
inductive Phase where
  /-- IDLE = 0: no permutation has been built since reset or CLR. -/
  | idle
  /-- KSA = 1: fewer than 256 iterations are done since KSAINIT. -/
  | ksa
  /-- STREAM = 2: the key schedule is complete. -/
  | stream
deriving DecidableEq, Repr

/-- ECODE (R29, R181): the codes a conforming block records. Code 6 is never raised and may be omitted (R191), 7..15 are never
recorded (R181; log entry 7). -/
inductive ErrorCode where
  /-- 0: no error since reset or CLR. -/
  | none
  /-- 1, E_ILLEGAL_OP. -/
  | illegalOp
  /-- 2, E_RSVD_FIELD. -/
  | rsvdField
  /-- 3, E_PHASE. -/
  | phase
  /-- 4, E_KLEN_RANGE. -/
  | klenRange
  /-- 5, E_EMPTY_KEY. -/
  | emptyKey
deriving DecidableEq, Repr

/-- What the outside world does to the block (R2, R210): one port access, or one assertion and release of `rst`. -/
inductive HostEvent where
  /-- A pulse of the reset input (R210). -/
  | reset
  /-- `PortRead(addr)`. -/
  | read (addr : PortAddr)
  /-- `PortWrite(addr, data)`. -/
  | write (addr : PortAddr) (data : Word)
deriving DecidableEq, Repr

/-- The state: R20's eleven pieces, then the model's own three fields (log entries 2, 4, 5). -/
structure State where
  /-- S (R21): the permutation state array. -/
  S : Bytes256
  /-- KEY (R23): the key buffer. -/
  key : Bytes256
  /-- KLEN (R24): the key length in bytes. -/
  klen : Count
  /-- KI (R25): how many iterations of the key schedule are done. -/
  ki : Count
  /-- KJ (R25): the key schedule's running index. -/
  kj : Byte
  /-- PI (R27): the keystream's first index. -/
  pi : Byte
  /-- PJ (R27): the keystream's second index. -/
  pj : Byte
  /-- PHASE (R26). -/
  phase : Phase
  /-- DOUT (R28): the result of the last XORB, SRD or KEYRD. -/
  dout : Byte
  /-- ERR (R29): the sticky error flag. -/
  err : Bool
  /-- ECODE (R29): the code of the first error. -/
  ecode : ErrorCode
  /-- MODEL. The host's accesses and reset pulses still to come, oldest first (R64; log entry 4). -/
  pending : List HostEvent
  /-- MODEL. The values port reads have answered, oldest first (R81; log entry 5). -/
  reads : List Word
  /-- MODEL. How many free values have been used (log entry 2). -/
  freeUse : Nat
deriving DecidableEq, Repr

/-- Where the model stops. Neither is reached from reset: a state that meets the invariants of R30 raises neither. -/
inductive Fault where
  /-- Raised by KSASTEP alone, in phase KSA with KLEN = 0, where `KI mod KLEN` is undefined (R120, R122, I1). Safe: no
  reachable state has it (R30 (c)). -/
  | scheduleKeyEmpty
  /-- Raised by KSASTEP alone, in phase KSA with KI > 255, where `S[KI]` is "index out of 0..255" (R122, R191, I4). Safe: no
  reachable state has it (R30 (c)). -/
  | scheduleIndex
deriving DecidableEq, Repr

/-- Why the model gives no meaning. -/
inductive Refusal where
  /-- Raised by the dispatch for an instruction without a meaning; no arm does. Safe. -/
  | notModelled (mnemonic : String)
deriving DecidableEq, Repr

/-- The reset state (R211). S is unspecified there: every byte 0x00 is a DESIGN CHOICE (log entry 1). The model's own fields
start empty, a DESIGN CHOICE (log entries 2, 4, 5). -/
def State.reset : State where
  S := Vector.replicate 256 0x00#8
  key := Vector.replicate 256 0x00#8
  klen := 0#9
  ki := 0#9
  kj := 0#8
  pi := 0#8
  pj := 0#8
  phase := .idle
  dout := 0x00#8
  err := false
  ecode := .none
  pending := []
  reads := []
  freeUse := 0

end Sys2Proof.Machine
end

