-- ==== Sys2Proof/Machine/Ops.lean ====
section
/-! DEFINITION. The named operations over the state (R9): reading and writing S and KEY, `swap`, the register writes, raising
an error (R183) and the two ways out of the error state (R161, R187, R210). -/

namespace Sys2Proof.Machine

/-! ## Byte arrays -/

/-- `v[i]` for an index 0..255 (R9). -/
def byteAt (v : Bytes256) (i : Byte) : Byte := v[i.toNat]'i.isLt

/-- `v[i] <- b` (R9). -/
def setByteAt (v : Bytes256) (i b : Byte) : Bytes256 := v.set i.toNat b i.isLt

/-- `swap(v[a], v[b])` (R9): `t <- v[a]; v[a] <- v[b]; v[b] <- t`. -/
def swapBytes (v : Bytes256) (a b : Byte) : Bytes256 :=
  setByteAt (setByteAt v a (byteAt v b)) b (byteAt v a)

/-- The identity permutation (R121): entry `i` holds `i`. Irreducible to the elaborator only, so that comparing two states does
not write its 256 entries out; the kernel evaluates it. -/
@[irreducible] def identityBytes : Bytes256 := Vector.ofFn fun i => BitVec.ofNat 8 i.val

/-- 256 bytes of 0x00 (R161, R211). -/
def zeroBytes : Bytes256 := Vector.replicate 256 0x00#8

/-! ## Register writes: each changes the named register and nothing else -/

def State.setS (s : State) (v : Bytes256) : State := { s with S := v }
def State.setKey (s : State) (v : Bytes256) : State := { s with key := v }
def State.setKlen (s : State) (n : Count) : State := { s with klen := n }
def State.setKi (s : State) (i : Count) : State := { s with ki := i }
def State.setKj (s : State) (j : Byte) : State := { s with kj := j }
def State.setPi (s : State) (i : Byte) : State := { s with pi := i }
def State.setPj (s : State) (j : Byte) : State := { s with pj := j }
def State.setPhase (s : State) (p : Phase) : State := { s with phase := p }
def State.setDout (s : State) (b : Byte) : State := { s with dout := b }
def State.setError (s : State) (e : Bool) (c : ErrorCode) : State := { s with err := e, ecode := c }
def State.setPending (s : State) (es : List HostEvent) : State := { s with pending := es }
/-- What the host saw on `rdata` joins the log of its reads (log entry 5). -/
def State.logRead (s : State) (w : Word) : State := { s with reads := s.reads ++ [w] }

/-! ## S and KEY -/

/-- `S[i]`. -/
def readS (s : State) (i : Byte) : Byte := byteAt s.S i

/-- `swap(S[a], S[b])`. -/
def swapS (s : State) (a b : Byte) : State := s.setS (swapBytes s.S a b)

/-- `KEY[i]`. -/
def readKey (s : State) (i : Byte) : Byte := byteAt s.key i

/-- `KEY[i] <- b`. -/
def writeKey (s : State) (i b : Byte) : State := s.setKey (setByteAt s.key i b)

/-! ## Entering and leaving the error state -/

/-- `raise Error(c)` (R183): ERR <- 1, ECODE <- c, and nothing else. -/
def raiseError (c : ErrorCode) (s : State) : State := s.setError true c

/-- The effect of CLR (R161): every register to its reset value, the key erased, the error state left; S is not written. -/
def clear (s : State) : State :=
  { s with
    key := zeroBytes
    klen := 0#9
    ki := 0#9
    kj := 0#8
    pi := 0#8
    pj := 0#8
    phase := .idle
    dout := 0x00#8
    err := false
    ecode := .none }

/-- The effect of the reset input (R210, R211): CLR's, and S takes unspecified content, the next free value (log entry 2). An
access the host presents meanwhile is held, not dropped (R210), so `pending` stays. -/
def hardReset (s : State) : State :=
  { clear s with S := Config.sReset s.freeUse, freeUse := s.freeUse + 1 }

end Sys2Proof.Machine
end

