-- ==== Sys2Proof/Machine/Operands.lean ====
section
/-! DEFINITION. The index and operand forms the commands compute (R8, R73, R101, R122, R141). Every other operand is used as
its field stands (R73). -/

namespace Sys2Proof.Machine

/-- KI as an index into S (R122); exact for KI in 0..255, where the key schedule uses it. -/
def kiIndex (s : State) : Byte := s.ki.setWidth 8

/-- The index into KEY: `KI mod KLEN`, "computed with the 9-bit KI and 9-bit KLEN" (R122). -/
def keyIndex (s : State) : Byte := (s.ki % s.klen).setWidth 8

/-- The new KJ: `(KJ + S[KI] + KEY[KI mod KLEN]) mod 256` (R122, R8). -/
def nextKj (s : State) : Byte := s.kj + readS s (kiIndex s) + readKey s (keyIndex s)

/-- The index of the keystream byte: `(S[PI] + S[PJ]) mod 256` (R141). -/
def keystreamIndex (s : State) : Byte := readS s s.pi + readS s s.pj

/-- Whether an encoded length executes: `N <= 256` (R101). -/
def klenInRange (n : Count) : Bool := n.toNat ≤ Config.keyMax

end Sys2Proof.Machine
end

