-- ==== Sys2Proof/Machine/Flags.lean ====
section
/-! DEFINITION. The block's only flags, PHASE and ERR (R33): their bits, the phase each command is allowed in, and the checks
made before a command's own rule (R185, R186). -/

namespace Sys2Proof.Machine

/-- PHASE as STATUS shows it (R26, R53). -/
def Phase.code : Phase → BitVec 2
  | .idle => 0#2
  | .ksa => 1#2
  | .stream => 2#2

/-- ECODE as STATUS shows it (R181, R53). -/
def ErrorCode.code : ErrorCode → BitVec 4
  | .none => 0#4
  | .illegalOp => 1#4
  | .rsvdField => 2#4
  | .phase => 3#4
  | .klenRange => 4#4
  | .emptyKey => 5#4

/-- `err_o`: equal to ERR at all times (R190). -/
def State.errO (s : State) : Bool := s.err

/-- `Allowed(op)` (R185). -/
def allowed : Op → Phase → Bool
  | .nop, _ | .clr, _ | .keyrd, _ | .ksainit, _ | .ksa, _ => true
  | .keywr, p | .keylen, p => p != .ksa
  | .ksastep, p => p == .ksa
  | .xorb, p => p == .stream
  | .srd, p => p != .idle

/-- The checks a decoded command other than CLR passes before its own rule runs (R185): in the error state it is refused with
no state change (R186); in a phase that does not allow it, it raises E_PHASE. -/
def guarded (op : Op) (rule : State → Host.Outcome State Fault Refusal) (s : State) :
    Host.Outcome State Fault Refusal :=
  if s.err then .next s
  else if allowed op s.phase then rule s
  else .next (raiseError .phase s)

/-- A word that does not decode (R185): refused in the error state (R186), else it raises its error. -/
def rejectWord (c : ErrorCode) (s : State) : State :=
  if s.err then s else raiseError c s

end Sys2Proof.Machine
end

