-- ==== Sys2Proof/Machine/Control.lean ====
section
/-! DEFINITION. The control and debug commands NOP, CLR, SRD (43_control.md). -/

namespace Sys2Proof.Machine

/-- NOP (R160): nothing. -/
def execNop : State → Host.Outcome State Fault Refusal :=
  guarded .nop fun s => .next s

/-- CLR (R161): the one command that also runs in the error state (R186). -/
def execClr (s : State) : Host.Outcome State Fault Refusal := .next (clear s)

/-- SRD (R162): `DOUT <- S[A]`. -/
def execSrd (a : Byte) : State → Host.Outcome State Fault Refusal :=
  guarded .srd fun s => .next (s.setDout (readS s a))

end Sys2Proof.Machine
end

