-- ==== Sys2Proof/Machine/Key.lean ====
section
/-! DEFINITION. The key buffer commands KEYWR, KEYLEN, KEYRD (40_key.md). -/

namespace Sys2Proof.Machine

/-- KEYWR (R100): `KEY[A] <- D`. -/
def execKeywr (a d : Byte) : State → Host.Outcome State Fault Refusal :=
  guarded .keywr fun s => .next (writeKey s a d)

/-- KEYLEN (R101): E_KLEN_RANGE for N in 257..511, else `KLEN <- N`. -/
def execKeylen (n : Count) : State → Host.Outcome State Fault Refusal :=
  guarded .keylen fun s =>
    if klenInRange n then .next (s.setKlen n) else .next (raiseError .klenRange s)

/-- KEYRD (R102): `DOUT <- KEY[A]`. -/
def execKeyrd (a : Byte) : State → Host.Outcome State Fault Refusal :=
  guarded .keyrd fun s => .next (s.setDout (readKey s a))

end Sys2Proof.Machine
end

