-- ==== Sys2Proof/Machine/Ksa.lean ====
section
/-! DEFINITION. The key scheduling commands KSAINIT, KSASTEP, KSA (41_ksa.md). -/

namespace Sys2Proof.Machine

/-- The start both KSAINIT and KSA make (R121, R124): the identity permutation, indices 0, phase KSA. -/
def startSchedule (s : State) : State :=
  (((((s.setS identityBytes).setKi 0#9).setKj 0#8).setPi 0#8).setPj 0#8).setPhase .ksa

/-- The end of an iteration (R122): at KI = 256, PI and PJ are cleared and the stream may run. -/
def finishSchedule (s : State) : State :=
  if s.ki = 256#9 then ((s.setPi 0#8).setPj 0#8).setPhase .stream else s

/-- `KsaIter()` (R122): the new KJ, the swap of `S[KI]` with `S[KJ]` under it, KI + 1, and the end test. -/
def ksaIter (s : State) : State :=
  finishSchedule (((swapS s (kiIndex s) (nextKj s)).setKj (nextKj s)).setKi (s.ki + 1#9))

/-- `repeat n times: KsaIter()` (R124). -/
def ksaIters : Nat → State → State
  | 0, s => s
  | n + 1, s => ksaIters n (ksaIter s)

/-- KSAINIT (R121). -/
def execKsainit : State → Host.Outcome State Fault Refusal :=
  guarded .ksainit fun s =>
    if s.klen = 0#9 then .next (raiseError .emptyKey s) else .next (startSchedule s)

/-- KSASTEP (R123). The two faults are for states no run reaches, where R122's indices are undefined (log entry 6). -/
def execKsastep : State → Host.Outcome State Fault Refusal :=
  guarded .ksastep fun s =>
    if s.klen = 0#9 then .fault .scheduleKeyEmpty
    else if 255 < s.ki.toNat then .fault .scheduleIndex
    else .next (ksaIter s)

/-- KSA (R124). -/
def execKsa : State → Host.Outcome State Fault Refusal :=
  guarded .ksa fun s =>
    if s.klen = 0#9 then .next (raiseError .emptyKey s) else .next (ksaIters 256 (startSchedule s))

end Sys2Proof.Machine
end

