-- ==== Sys2Proof/Machine/Prga.lean ====
section
/-! DEFINITION. The keystream command XORB (42_prga.md). -/

namespace Sys2Proof.Machine

/-- The state part of `PrgaIter` (R141): PI + 1, PJ + S[PI] with the new PI, and the swap under the new indices. -/
def prgaAdvance (s : State) : State :=
  swapS ((s.setPi (s.pi + 1#8)).setPj (s.pj + readS s (s.pi + 1#8))) (s.pi + 1#8) (s.pj + readS s (s.pi + 1#8))

/-- The keystream byte of `PrgaIter` (R141), read after the swap. -/
def keystreamByte (s : State) : Byte := readS s (keystreamIndex s)

/-- XORB (R142): `DOUT <- PrgaIter(D)`, where PrgaIter returns `D XOR k` (R141). -/
def execXorb (d : Byte) : State → Host.Outcome State Fault Refusal :=
  guarded .xorb fun s => .next ((prgaAdvance s).setDout (d ^^^ keystreamByte (prgaAdvance s)))

end Sys2Proof.Machine
end

