-- ==== Sys2Proof/Machine/Dispatch.lean ====
section
/-! DEFINITION. One arm per command of the opcode table. -/

namespace Sys2Proof.Machine

/-- What a decoded command does (R185): the error-state and phase checks, then its own rule. -/
def exec (i : Instr) (s : State) : Host.Outcome State Fault Refusal :=
  match i with
  | .nop => Sys2Proof.Machine.execNop s
  | .clr => Sys2Proof.Machine.execClr s
  | .keywr a d => Sys2Proof.Machine.execKeywr a d s
  | .keylen n => Sys2Proof.Machine.execKeylen n s
  | .keyrd a => Sys2Proof.Machine.execKeyrd a s
  | .ksainit => Sys2Proof.Machine.execKsainit s
  | .ksastep => Sys2Proof.Machine.execKsastep s
  | .ksa => Sys2Proof.Machine.execKsa s
  | .xorb d => Sys2Proof.Machine.execXorb d s
  | .srd a => Sys2Proof.Machine.execSrd a s

end Sys2Proof.Machine
end

