-- ==== Sys2Proof/Machine/Port.lean ====
section
/-! DEFINITION. The host port (20_memory.md): the register map, a command word written to CMD (R52, R185), and the effect of
one host event. -/

namespace Sys2Proof.Machine

/-! ## Register reads -/

/-- ERR as one bit. -/
def errBit (s : State) : BitVec 1 := if s.err then 1#1 else 0#1

/-- STATUS (R53): `zext_32({KLEN, ECODE, 0b0, ERR, PHASE})`. -/
def statusWord (s : State) : Word :=
  (s.klen ++ s.ecode.code ++ 0#1 ++ errBit s ++ s.phase.code).setWidth 32

/-- KIDX (R56): `zext_32({KJ, 0b0000000, KI})`. -/
def kidxWord (s : State) : Word := (s.kj ++ 0#7 ++ s.ki).setWidth 32

/-- PIDX (R57): `zext_32({PJ, 0x00, PI})`. -/
def pidxWord (s : State) : Word := (s.pj ++ 0x00#8 ++ s.pi).setWidth 32

/-- `PortRead(a)` (R51 to R58); CMD and the reserved addresses read 0 (R52, R58). -/
def portRead (a : PortAddr) (s : State) : Word :=
  match a.toNat with
  | 1 => statusWord s
  | 2 => s.dout.setWidth 32
  | 3 => kidxWord s
  | 4 => pidxWord s
  | 5 => Config.idWord
  | _ => 0#32

/-- The address of each named readable register (R51). -/
def portRegAddr : PortReg → PortAddr
  | .status => 1#3
  | .dout => 2#3
  | .kidx => 3#3
  | .pidx => 4#3
  | .id => 5#3

/-! ## Register writes -/

/-- `Step(w)` (R185): decode; a word that does not decode is rejected; a command runs. The error state's refusal (R186) stands
in `rejectWord` and in each command's `guarded`. -/
def runWord (w : Word) (s : State) : Host.Outcome State Fault Refusal :=
  match decode w with
  | .illegal => .next (rejectWord .illegalOp s)
  | .reserved _ => .next (rejectWord .rsvdField s)
  | .instr i => exec i s

/-- `PortWrite(a, w)`: a write to CMD runs the word (R52); any other write is ignored (R58, R59). -/
def portWrite (a : PortAddr) (w : Word) (s : State) : Host.Outcome State Fault Refusal :=
  if a = 0#3 then runWord w s else .next s

/-! ## One host event -/

/-- The effect of one host event: a reset pulse (R210), a read whose value the host sees (R63), a write. -/
def serve (e : HostEvent) (s : State) : Host.Outcome State Fault Refusal :=
  match e with
  | .reset => .next (hardReset s)
  | .read a => .next (s.logRead (portRead a s))
  | .write a w => portWrite a w s

end Sys2Proof.Machine
end

