-- ==== Sys2Proof/Machine/Step.lean ====
section
/-! DEFINITION. One step of the machine, and where a command word is placed for the next step. -/

namespace Sys2Proof.Machine

/-- One step: the oldest host event is served, whole, before the next one (R64). With none waiting the block waits: it has no
autonomous step (R2, R212). -/
def step (s : State) : Host.Outcome State Fault Refusal :=
  match s.pending with
  | [] => .next s
  | e :: rest => serve e (s.setPending rest)

/-- The block fetches nothing (R31): its next instruction is the host's next write to CMD, which this places before whatever
else is waiting (log entry 4). -/
def State.withFetchWord (s : State) (nbits w : Nat) : State :=
  s.setPending (.write 0#3 (tableWord nbits w) :: s.pending)

end Sys2Proof.Machine
end

