-- ==== Sys2Proof/Machine/Assembler.lean ====
section
/-! DEFINITION. The assembler of R79, its pseudo-instructions (R80), and the host-program notation (R81). None of it has a
hardware effect (D39): it says which words the host writes. -/

namespace Sys2Proof.Machine

/-! ## Expansion (R80) -/

/-- `KEYWR m, b` for the bytes of a key from index `m` on. -/
def keyWrites (m : Nat) : List Byte → List Instr
  | [] => []
  | b :: rest => .keywr (BitVec.ofNat 8 m) b :: keyWrites (m + 1) rest

/-- `LOADKEY` (R80, R103): `KEYWR 0, b0` ... `KEYWR n-1, b(n-1)`, then `KEYLEN n`. -/
def loadKey (bytes : List Byte) : List Instr :=
  keyWrites 0 bytes ++ [.keylen (BitVec.ofNat 9 bytes.length)]

/-- The 16 bytes of a 128-bit key, most significant first (R61): byte `m` is `K[127-8m : 120-8m]`. -/
def keyBytes128 (k : BitVec 128) : List Byte :=
  (List.range 16).map fun m => k.extractLsb' (120 - 8 * m) 8

/-- The commands a well-formed line stands for (R79, R80). -/
def expand : AsmLine → List Instr
  | .nop => [.nop]
  | .clr => [.clr]
  | .keywr a d => [.keywr (BitVec.ofNat 8 a) (BitVec.ofNat 8 d)]
  | .keylen n => [.keylen (BitVec.ofNat 9 n)]
  | .keyrd a => [.keyrd (BitVec.ofNat 8 a)]
  | .ksainit => [.ksainit]
  | .ksastep => [.ksastep]
  | .ksa => [.ksa]
  | .xorb d => [.xorb (BitVec.ofNat 8 d)]
  | .srd a => [.srd (BitVec.ofNat 8 a)]
  | .ksgen => [.xorb 0#8]
  | .loadkey bytes => loadKey (bytes.map (BitVec.ofNat 8))
  | .loadkey128 k => loadKey (keyBytes128 (BitVec.ofNat 128 k))

/-- The words of a line; an operand outside its range is refused (R79). -/
def assemble (line : AsmLine) : Option (List Word) :=
  if line.wellFormed then some ((expand line).map encode) else none

/-- The host events of one line of a host program (R81). -/
def hostEvents : HostLine → Option (List HostEvent)
  | .command line => (assemble line).map fun ws => ws.map (.write 0#3)
  | .rd reg => some [.read (portRegAddr reg)]

/-- The host events of a host program, in order (R81). -/
def programEvents : List HostLine → Option (List HostEvent)
  | [] => some []
  | line :: rest =>
    match hostEvents line, programEvents rest with
    | some es, some more => some (es ++ more)
    | _, _ => none

/-! ## Assembler text (R79): mnemonic in capitals, operands separated by commas, decimal or 0x hexadecimal -/

/-- The value of a digit in the given base, either letter case (log entry 13). -/
def digitValue (base : Nat) (c : Char) : Option Nat :=
  let v :=
    if '0' ≤ c ∧ c ≤ '9' then some (c.toNat - '0'.toNat)
    else if 'a' ≤ c ∧ c ≤ 'f' then some (c.toNat - 'a'.toNat + 10)
    else if 'A' ≤ c ∧ c ≤ 'F' then some (c.toNat - 'A'.toNat + 10)
    else none
  v.filter (· < base)

/-- The digits of a number read left to right onto `acc`. -/
def digitsValue (base acc : Nat) : List Char → Option Nat
  | [] => some acc
  | c :: rest =>
    match digitValue base c with
    | some d => digitsValue base (acc * base + d) rest
    | none => none

/-- A number, decimal or `0x` hexadecimal, with at least one digit. -/
def parseNumber : List Char → Option Nat
  | '0' :: 'x' :: c :: rest => digitsValue 16 0 (c :: rest)
  | c :: rest => digitsValue 10 0 (c :: rest)
  | [] => none

/-- A text without the spaces around it. -/
def trimSpaces (cs : List Char) : List Char :=
  ((cs.dropWhile (· == ' ')).reverse.dropWhile (· == ' ')).reverse

/-- A text cut at its commas. -/
def splitCommas (current : List Char) : List Char → List (List Char)
  | [] => [current]
  | c :: rest => if c == ',' then current :: splitCommas [] rest else splitCommas (current ++ [c]) rest

/-- The operands of a line: none when only spaces stand there, else numbers separated by commas. -/
def parseOperands (cs : List Char) : Option (List Nat) :=
  if trimSpaces cs = [] then some []
  else (splitCommas [] cs).mapM fun part => parseNumber (trimSpaces part)

/-- The line a mnemonic (R79, R80) and its operands make, if they are as many as it takes. -/
def lineOf (mnemonic : List Char) (operands : List Nat) : Option AsmLine :=
  match mnemonic, operands with
  | ['N', 'O', 'P'], [] => some .nop
  | ['C', 'L', 'R'], [] => some .clr
  | ['K', 'E', 'Y', 'W', 'R'], [a, d] => some (.keywr a d)
  | ['K', 'E', 'Y', 'L', 'E', 'N'], [n] => some (.keylen n)
  | ['K', 'E', 'Y', 'R', 'D'], [a] => some (.keyrd a)
  | ['K', 'S', 'A', 'I', 'N', 'I', 'T'], [] => some .ksainit
  | ['K', 'S', 'A', 'S', 'T', 'E', 'P'], [] => some .ksastep
  | ['K', 'S', 'A'], [] => some .ksa
  | ['X', 'O', 'R', 'B'], [d] => some (.xorb d)
  | ['S', 'R', 'D'], [a] => some (.srd a)
  | ['K', 'S', 'G', 'E', 'N'], [] => some .ksgen
  | ['L', 'O', 'A', 'D', 'K', 'E', 'Y'], bytes => some (.loadkey bytes)
  | ['L', 'O', 'A', 'D', 'K', 'E', 'Y', '1', '2', '8'], [k] => some (.loadkey128 k)
  | _, _ => none

/-- One line of assembler text as characters: the mnemonic up to the first space, then the operands. -/
def parseLine (cs : List Char) : Option AsmLine :=
  let text := trimSpaces cs
  match parseOperands (text.dropWhile (· != ' ')) with
  | some operands => lineOf (text.takeWhile (· != ' ')) operands
  | none => none

end Sys2Proof.Machine
end

