-- ==== Sys2Proof/Machine/Reference.lean ====
section
/-! DEFINITION. The source's own algorithms as the spec states them (R120, R140), over plain numbers and functions, apart from
the machine's registers and arrays; lists of commands run in order; and tables of the spec that statements quote. -/

namespace Sys2Proof.Machine

/-- `swap(s[a], s[b])` on a function of the index. -/
def refSwap (s : Nat → Nat) (a b : Nat) : Nat → Nat :=
  fun k => if k = a then s b else if k = b then s a else s k

/-- Iteration `i` of `Ksa` (R120): `j <- (j + s[i] + key[i mod n]) mod 256; swap(s[i], s[j])`. -/
def refKsaRound (key : List Byte) (p : (Nat → Nat) × Nat) (i : Nat) : (Nat → Nat) × Nat :=
  let j := (p.2 + p.1 i + (key.getD (i % key.length) 0#8).toNat) % 256
  (refSwap p.1 i j, j)

/-- `Ksa(key)` (R120): the array and the final index. The spec leaves the empty key undefined; no statement uses it there. -/
def refKsa (key : List Byte) : (Nat → Nat) × Nat :=
  (List.range 256).foldl (refKsaRound key) (fun i => i, 0)

/-- `Prga` (R140) from indices `i` and `j`. -/
def refPrgaFrom (s : Nat → Nat) (i j : Nat) : List Byte → List Byte
  | [] => []
  | m :: rest =>
    let i' := (i + 1) % 256
    let j' := (j + s i') % 256
    let s' := refSwap s i' j'
    (BitVec.ofNat 8 (s' ((s' i' + s' j') % 256)) ^^^ m) :: refPrgaFrom s' i' j' rest

/-- `Prga(s, m)` (R140). -/
def refPrga (s : Nat → Nat) (m : List Byte) : List Byte := refPrgaFrom s 0 0 m

/-- The source's `CipherOperation(key, m)` (R143): `Prga(Ksa(key).s, m)`. -/
def refCipher (key m : List Byte) : List Byte := refPrga (refKsa key).1 m

/-- Commands executed in order, stopping at the first that gives no next state. -/
def execAll : List Instr → State → Host.Outcome State Fault Refusal
  | [], s => .next s
  | i :: rest, s =>
    match exec i s with
    | .next t => execAll rest t
    | .fault r => .fault r
    | .refused r => .refused r

/-- The key a KSA uses: `KEY[0..KLEN-1]` (R125). -/
def loadedKey (s : State) : List Byte :=
  (List.range s.klen.toNat).map fun m => byteAt s.key (BitVec.ofNat 8 m)

/-- The host's sequence of R143: load the key, KSA, then for each message byte one XORB and one read of DOUT. -/
def cipherAccesses (key m : List Byte) : List HostEvent :=
  (loadKey key ++ [Instr.ksa]).map (fun i => .write 0#3 (encode i)) ++
    m.flatMap fun d => [.write 0#3 (encode (.xorb d)), .read 2#3]

/-- The reserved bits of each format (R72, R77), field by field. -/
def reservedField (f : Format) (w : Word) : Nat :=
  match f with
  | .f0 => (w.extractLsb' 0 24).toNat
  | .fa => (w.extractLsb' 0 16).toNat
  | .fn => (w.extractLsb' 9 15).toNat
  | .fd => (w.extractLsb' 8 16).toNat
  | .fad => (w.extractLsb' 8 8).toNat

/-- Which codes each command can raise (R182). -/
def raisable : Op → List ErrorCode
  | .nop => [.rsvdField]
  | .clr => [.rsvdField]
  | .keywr => [.rsvdField, .phase]
  | .keylen => [.rsvdField, .phase, .klenRange]
  | .keyrd => [.rsvdField]
  | .ksainit => [.rsvdField, .emptyKey]
  | .ksastep => [.rsvdField, .phase]
  | .ksa => [.rsvdField, .emptyKey]
  | .xorb => [.rsvdField, .phase]
  | .srd => [.rsvdField, .phase]

end Sys2Proof.Machine
end

