-- ==== Sys2Proof/Safety.lean ====
section
/-! DEFINITION. What a safe run is: the invariants of R30, the permutation invariant of R22, a step that goes on, and the
relation of two states that differ only in an S the host cannot see (R21). -/

namespace Sys2Proof.Machine

/-- "No duplicates, every value present exactly once" (R22). -/
def IsPermutation (v : Bytes256) : Prop := ∀ b : Byte, ∃ i : Byte, byteAt v i = b ∧ ∀ k : Byte, byteAt v k = b → k = i

/-- The invariants of every reachable state (R30). (a), PHASE is 0, 1 or 2, holds by PHASE's type. -/
structure BlockInv (s : State) : Prop where
  /-- R30 (b). -/
  idleIndices : s.phase = .idle → s.ki = 0#9 ∧ s.kj = 0#8 ∧ s.pi = 0#8 ∧ s.pj = 0#8
  /-- R30 (c). -/
  scheduleRange : s.phase = .ksa → s.ki.toNat ≤ 255 ∧ 1 ≤ s.klen.toNat ∧ s.pi = 0#8 ∧ s.pj = 0#8
  /-- R30 (d). -/
  streamComplete : s.phase = .stream → s.ki = 256#9
  /-- R30 (e), R22. -/
  permutation : s.phase ≠ .idle → IsPermutation s.S
  /-- R30 (f). -/
  keyLength : s.klen.toNat ≤ 256
  /-- R30 (g), R29. -/
  errorCode : s.err = false ↔ s.ecode = .none

/-- A step that neither faults nor refuses. -/
def GoesOn (s : State) : Prop := ∃ t, step s = .next t

/-- Two states equal but for S, and equal in S too unless PHASE is IDLE: the same to the host (R21, I6, I7). -/
def SameToHost (s t : State) : Prop :=
  t = { s with S := t.S } ∧ (s.phase ≠ .idle → t.S = s.S)

/-- Two outcomes of the same kind, with states the same to the host or the same reason. -/
def SameOutcome : Host.Outcome State Fault Refusal → Host.Outcome State Fault Refusal → Prop
  | .next s, .next t => SameToHost s t
  | .fault a, .fault b => a = b
  | .refused a, .refused b => a = b
  | _, _ => False

/-- A word with OP `c` and a 1 in the reserved bits `w[lo+len-1 : lo]`, written with ERR = 0, raises E_RSVD_FIELD and changes
nothing else (R77). -/
def ReservedBitsRaise (c : Byte) (lo len : Nat) : Prop :=
  ∀ (s : State) (w : Word) (rest : List HostEvent), s.err = false → s.pending = .write 0#3 w :: rest →
    w.extractLsb' 24 8 = c → (w.extractLsb' lo len).toNat ≠ 0 →
    step s = .next { s with pending := rest, err := true, ecode := .rsvdField }

end Sys2Proof.Machine
end

