-- ==== Sys2Proof/Certificates/Slice0/Obligations.lean ====
section
/-! DEFINITION. The statements for the provers, each with the rule of spec/ it formalises. `byteAt v i` is the model's read of
entry `i` of S or KEY. -/

open Sys2Proof Sys2Proof.Machine

/-! ## Encoding (30_encoding.md) -/

/-- Every command, with every operand its fields admit, is what its encoded word decodes to (R72, R74, R75). -/
def Obligations.DecodeReadsBackEveryEncoding : Prop :=
  ∀ i : Instr, decode (encode i) = .instr i

/-- Each command word has one meaning and each command one word (R74, R79). -/
def Obligations.DecodedCommandEncodesToItsWord : Prop :=
  ∀ (w : Word) (i : Instr), decode w = .instr i → encode i = w

/-- R72, R74: the table's match and mask values, which words spell which row, and that at most one row matches a word. -/
def Obligations.WordSpellsTheRowItMatches : Prop :=
  ([Op.nop, .clr, .keywr, .keylen, .keyrd, .ksainit, .ksastep, .ksa, .xorb, .srd].map fun op =>
      (op.matchWord.toNat, op.mask.toNat)) =
    [(0x00000000, 0xFFFFFFFF), (0x01000000, 0xFFFFFFFF), (0x10000000, 0xFF00FF00), (0x11000000, 0xFFFFFE00),
      (0x12000000, 0xFF00FFFF), (0x20000000, 0xFFFFFFFF), (0x21000000, 0xFFFFFFFF), (0x22000000, 0xFFFFFFFF),
      (0x30000000, 0xFFFFFF00), (0x40000000, 0xFF00FFFF)] ∧
  (∀ (w : Word) (op : Op), (∃ i, decode w = .instr i ∧ i.op = op) ↔ w &&& op.mask = op.matchWord) ∧
  (∀ (w : Word) (x y : Op), w &&& x.mask = x.matchWord → w &&& y.mask = y.matchWord → x = y)

/-- R73: the operands are the word's fields as unsigned numbers, used as they are. -/
def Obligations.OperandsAreTheWordsFields : Prop :=
  ∀ (w : Word) (i : Instr), decode w = .instr i →
    match i with
    | .keywr a d => a.toNat = w.toNat / 2 ^ 16 % 2 ^ 8 ∧ d.toNat = w.toNat % 2 ^ 8
    | .keylen n => n.toNat = w.toNat % 2 ^ 9
    | .keyrd a => a.toNat = w.toNat / 2 ^ 16 % 2 ^ 8
    | .xorb d => d.toNat = w.toNat % 2 ^ 8
    | .srd a => a.toNat = w.toNat / 2 ^ 16 % 2 ^ 8
    | .nop | .clr | .ksainit | .ksastep | .ksa => True

/-- R76: a word with any of the 246 illegal opcodes, whatever its other bits, raises E_ILLEGAL_OP and has no other effect. -/
def Obligations.IllegalOpcodeRaisesAndChangesNothingElse : Prop :=
  ∀ (s : State) (w : Word) (rest : List HostEvent) (c : Nat),
    s.err = false → s.pending = .write 0#3 w :: rest → (w.extractLsb' 24 8).toNat = c →
    ((0x02 ≤ c ∧ c ≤ 0x0F) ∨ (0x13 ≤ c ∧ c ≤ 0x1F) ∨ (0x23 ≤ c ∧ c ≤ 0x2F) ∨ (0x31 ≤ c ∧ c ≤ 0x3F) ∨
      (0x41 ≤ c ∧ c ≤ 0xFF)) →
    step s = .next { s with pending := rest, err := true, ecode := .illegalOp }

/-- R77: a word with a legal opcode and a 1 in any reserved bit of its format raises E_RSVD_FIELD and has no other effect. -/
def Obligations.ReservedBitRaisesAndChangesNothingElse : Prop :=
  ∀ (s : State) (w : Word) (rest : List HostEvent) (op : Op),
    s.err = false → s.pending = .write 0#3 w :: rest → w.extractLsb' 24 8 = op.code → reservedField op.format w ≠ 0 →
    step s = .next { s with pending := rest, err := true, ecode := .rsvdField }

/-- A few words written out from R71 to R74, one per family and format. -/
def Obligations.SampleWordsDecode : Prop :=
  decode 0b00000000000000000000000000000000#32 = .instr .nop ∧
  decode 0b00000001000000000000000000000000#32 = .instr .clr ∧
  decode 0b00010000000000100000000001111001#32 = .instr (.keywr 0x02#8 0x79#8) ∧
  decode 0b00010001000000000000000100000001#32 = .instr (.keylen 257#9) ∧
  decode 0b00010010110010000000000000000000#32 = .instr (.keyrd 200#8) ∧
  decode 0b00100010000000000000000000000000#32 = .instr .ksa ∧
  decode 0b00110000000000000000000001010000#32 = .instr (.xorb 0x50#8) ∧
  decode 0b01000000000001110000000000000000#32 = .instr (.srd 7#8)

/-- The words R79 gives each of its ten lines, and that an operand outside its range is refused. -/
def Obligations.AssemblerWordsAndRefusals : Prop :=
  assemble .nop = some [0x00000000#32] ∧ assemble .clr = some [0x01000000#32] ∧
  assemble .ksainit = some [0x20000000#32] ∧ assemble .ksastep = some [0x21000000#32] ∧
  assemble .ksa = some [0x22000000#32] ∧
  (∀ a d : Nat, a < 256 → d < 256 →
    assemble (.keywr a d) = some [BitVec.ofNat 32 (0x10000000 ||| (a <<< 16) ||| d)]) ∧
  (∀ n : Nat, n < 512 → assemble (.keylen n) = some [BitVec.ofNat 32 (0x11000000 ||| n)]) ∧
  (∀ a : Nat, a < 256 → assemble (.keyrd a) = some [BitVec.ofNat 32 (0x12000000 ||| (a <<< 16))]) ∧
  (∀ d : Nat, d < 256 → assemble (.xorb d) = some [BitVec.ofNat 32 (0x30000000 ||| d)]) ∧
  (∀ a : Nat, a < 256 → assemble (.srd a) = some [BitVec.ofNat 32 (0x40000000 ||| (a <<< 16))]) ∧
  (∀ a d : Nat, (256 ≤ a ∨ 256 ≤ d) → assemble (.keywr a d) = none) ∧
  (∀ n : Nat, 512 ≤ n → assemble (.keylen n) = none) ∧
  (∀ a : Nat, 256 ≤ a → assemble (.keyrd a) = none ∧ assemble (.xorb a) = none ∧ assemble (.srd a) = none)

/-- R80: the three pseudo-instructions and their expansions. -/
def Obligations.PseudoInstructionExpansions : Prop :=
  assemble .ksgen = assemble (.xorb 0) ∧
  (∀ bytes : List Nat, 1 ≤ bytes.length → bytes.length ≤ 256 → (∀ b ∈ bytes, b < 256) →
    ∃ ws, assemble (.loadkey bytes) = some ws ∧ ws.length = bytes.length + 1 ∧
      (∀ m b, bytes[m]? = some b → ws[m]? = (assemble (.keywr m b)).bind List.head?) ∧
      ws[bytes.length]? = (assemble (.keylen bytes.length)).bind List.head?) ∧
  (∀ k : Nat, k < 2 ^ 128 →
    assemble (.loadkey128 k) = assemble (.loadkey ((List.range 16).map fun m => k / 2 ^ (120 - 8 * m) % 256)))

/-! ## The step (60_exceptions.md) -/

/-- A write of a command word to CMD runs the decoded command at the state without that access (R52, R185). -/
def Obligations.StepRunsTheDecodedCommand : Prop :=
  ∀ (s : State) (w : Word) (rest : List HostEvent) (i : Instr),
    s.pending = .write 0#3 w :: rest → decode w = .instr i → step s = exec i { s with pending := rest }

/-- R185: the step for a command word, with the `Allowed` table. -/
def Obligations.CommandWordChecksInOrder : Prop :=
  (∀ (s : State) (w : Word) (rest : List HostEvent), s.pending = .write 0#3 w :: rest →
    (s.err = true → w = 0x01000000#32 → step s = exec .clr { s with pending := rest }) ∧
    (s.err = true → w ≠ 0x01000000#32 → step s = .next { s with pending := rest }) ∧
    (s.err = false → decode w = .illegal →
      step s = .next { s with pending := rest, err := true, ecode := .illegalOp }) ∧
    (∀ op, s.err = false → decode w = .reserved op →
      step s = .next { s with pending := rest, err := true, ecode := .rsvdField }) ∧
    (∀ i, s.err = false → decode w = .instr i → allowed i.op s.phase = false →
      step s = .next { s with pending := rest, err := true, ecode := .phase }) ∧
    (∀ i, s.err = false → decode w = .instr i → allowed i.op s.phase = true →
      step s = exec i { s with pending := rest })) ∧
  (∀ op ∈ [Op.nop, .clr, .keyrd, .ksainit, .ksa], ∀ p, allowed op p = true) ∧
  (∀ op ∈ [Op.keywr, .keylen], ∀ p, allowed op p = true ↔ p = .idle ∨ p = .stream) ∧
  (∀ p, allowed .ksastep p = true ↔ p = .ksa) ∧
  (∀ p, allowed .xorb p = true ↔ p = .stream) ∧
  (∀ p, allowed .srd p = true ↔ p = .ksa ∨ p = .stream)

/-- R183, R184: a command that raises an error writes ERR and ECODE and nothing else. -/
def Obligations.ErrorsArePrecise : Prop :=
  ∀ (s t : State) (w : Word) (rest : List HostEvent),
    s.err = false → s.pending = .write 0#3 w :: rest → step s = .next t → t.err = true →
    t.ecode ≠ .none ∧ t = { s with pending := rest, err := true, ecode := t.ecode }

/-- R182: which command can raise which code, and that it can. -/
def Obligations.CodesEachCommandCanRaise : Prop :=
  (∀ (op : Op) (c : ErrorCode),
    (∃ (s t : State) (w : Word) (rest : List HostEvent), s.err = false ∧ s.pending = .write 0#3 w :: rest ∧
      w.extractLsb' 24 8 = op.code ∧ step s = .next t ∧ t.err = true ∧ t.ecode = c) ↔ c ∈ raisable op) ∧
  (∀ c : ErrorCode,
    (∃ (s t : State) (w : Word) (rest : List HostEvent), s.err = false ∧ s.pending = .write 0#3 w :: rest ∧
      (∀ op : Op, w.extractLsb' 24 8 ≠ op.code) ∧ step s = .next t ∧ t.err = true ∧ t.ecode = c) ↔ c = .illegalOp)

/-- R186: in the error state every word but exactly CLR's is refused with no state change, and port reads still answer the
current registers. -/
def Obligations.ErrorStateRefusesAllButClr : Prop :=
  (∀ (s : State) (w : Word) (rest : List HostEvent), s.err = true → s.pending = .write 0#3 w :: rest →
    w ≠ 0x01000000#32 → step s = .next { s with pending := rest }) ∧
  (∀ (s : State) (i : Instr), s.err = true → i ≠ .clr → exec i s = .next s) ∧
  (∀ (s : State) (a : PortAddr) (rest : List HostEvent), s.err = true → s.pending = .read a :: rest →
    step s = .next { s with pending := rest, reads := s.reads ++ [portRead a s] })

/-- R187: the error state is left by CLR and by reset, which return every other register to its reset value, and by nothing
else. S has no reset value (R211); the last three fields are the model's own. -/
def Obligations.ErrorStateLeftOnlyByClrOrReset : Prop :=
  (∀ (s t : State), s.err = true → step s = .next t → t.err = false →
    ∃ rest, s.pending = .reset :: rest ∨ s.pending = .write 0#3 0x01000000#32 :: rest) ∧
  (∀ (s : State) (rest : List HostEvent),
    s.pending = .reset :: rest ∨ s.pending = .write 0#3 0x01000000#32 :: rest →
    ∃ t, step s = .next t ∧ t.err = false ∧ t.ecode = .none ∧
      t = { State.reset with S := t.S, pending := t.pending, reads := t.reads, freeUse := t.freeUse })

/-- R188: a step from the error state either stays in it with the code of the first error, or leaves it with no code. -/
def Obligations.FirstErrorCodeIsKept : Prop :=
  ∀ s t : State, s.err = true → step s = .next t →
    (t.err = true ∧ t.ecode = s.ecode) ∨ (t.err = false ∧ t.ecode = .none)

/-! ## The commands: result, completion, frame, errors -/

/-- R160. -/
def Obligations.NopChangesNothing : Prop :=
  (∀ s : State, exec .nop s = .next s) ∧ decode 0x00000000#32 = .instr .nop ∧
  ReservedBitsRaise 0x00#8 0 24

/-- R161: CLR runs in every phase and in the error state, and every register but S takes its reset value. That S keeps its
content is the model's choice (log entry 3): R161's pseudocode does not write S, while I7 allows any content after CLR. -/
def Obligations.ClrIsSoftReset : Prop :=
  (∀ s : State, exec .clr s =
    .next { State.reset with S := s.S, pending := s.pending, reads := s.reads, freeUse := s.freeUse }) ∧
  (∀ w : Word, decode w = .instr .clr ↔ w = 0x01000000#32) ∧
  (∀ (s : State) (w : Word) (rest : List HostEvent), s.err = true → s.pending = .write 0#3 w :: rest →
    w.extractLsb' 24 8 = 0x01#8 → (w.extractLsb' 0 24).toNat ≠ 0 → step s = .next { s with pending := rest }) ∧
  ReservedBitsRaise 0x01#8 0 24

/-- R100. -/
def Obligations.KeywrWritesOneKeyByte : Prop :=
  (∀ (s : State) (a d : Byte), s.err = false → s.phase ≠ .ksa →
    ∃ t, exec (.keywr a d) s = .next t ∧ t = { s with key := t.key } ∧
      ∀ k, byteAt t.key k = if k = a then d else byteAt s.key k) ∧
  (∀ (s : State) (a d : Byte), s.err = false → s.phase = .ksa →
    exec (.keywr a d) s = .next { s with err := true, ecode := .phase }) ∧
  decode 0x1000004B#32 = .instr (.keywr 0#8 0x4B#8) ∧ ReservedBitsRaise 0x10#8 8 8

/-- R101. -/
def Obligations.KeylenSetsTheLength : Prop :=
  (∀ (s : State) (n : Count), s.err = false → s.phase ≠ .ksa → n.toNat ≤ 256 →
    exec (.keylen n) s = .next { s with klen := n }) ∧
  (∀ (s : State) (n : Count), s.err = false → s.phase ≠ .ksa → 257 ≤ n.toNat →
    exec (.keylen n) s = .next { s with err := true, ecode := .klenRange }) ∧
  (∀ (s : State) (n : Count), s.err = false → s.phase = .ksa →
    exec (.keylen n) s = .next { s with err := true, ecode := .phase }) ∧
  decode 0x11000003#32 = .instr (.keylen 3#9) ∧ ReservedBitsRaise 0x11#8 9 15

/-- R102. -/
def Obligations.KeyrdReadsOneKeyByte : Prop :=
  (∀ (s : State) (a : Byte), s.err = false → exec (.keyrd a) s = .next { s with dout := byteAt s.key a }) ∧
  decode 0x12020000#32 = .instr (.keyrd 2#8) ∧ ReservedBitsRaise 0x12#8 0 16

/-- R162. -/
def Obligations.SrdReadsOneEntryOfS : Prop :=
  (∀ (s : State) (a : Byte), s.err = false → s.phase ≠ .idle →
    exec (.srd a) s = .next { s with dout := byteAt s.S a }) ∧
  (∀ (s : State) (a : Byte), s.err = false → s.phase = .idle →
    exec (.srd a) s = .next { s with err := true, ecode := .phase }) ∧
  decode 0x40070000#32 = .instr (.srd 7#8) ∧ ReservedBitsRaise 0x40#8 0 16

/-- R121. -/
def Obligations.KsainitStartsFromTheIdentity : Prop :=
  (∀ s : State, s.err = false → s.klen ≠ 0#9 →
    ∃ t, exec .ksainit s = .next t ∧ (∀ k, byteAt t.S k = k) ∧
      t = { s with S := t.S, ki := 0#9, kj := 0#8, pi := 0#8, pj := 0#8, phase := .ksa }) ∧
  (∀ s : State, s.err = false → s.klen = 0#9 →
    exec .ksainit s = .next { s with err := true, ecode := .emptyKey }) ∧
  decode 0x20000000#32 = .instr .ksainit ∧ ReservedBitsRaise 0x20#8 0 24

/-- R122, R123: one iteration: the new KJ, the swap of entries KI and KJ under it, KI + 1, and at KI = 256 the stream. The
premises on KLEN and KI hold in phase KSA in every reachable state (R30 (c)). -/
def Obligations.KsastepDoesOneIteration : Prop :=
  (∀ (s : State) (i k j : Byte), s.err = false → s.phase = .ksa → 1 ≤ s.klen.toNat → s.ki.toNat ≤ 255 →
    i.toNat = s.ki.toNat → k.toNat = s.ki.toNat % s.klen.toNat →
    j.toNat = (s.kj.toNat + (byteAt s.S i).toNat + (byteAt s.key k).toNat) % 256 →
    ∃ t, exec .ksastep s = .next t ∧
      t.kj = j ∧ t.ki.toNat = s.ki.toNat + 1 ∧
      (∀ x, byteAt t.S x = if x = i then byteAt s.S j else if x = j then byteAt s.S i else byteAt s.S x) ∧
      (s.ki.toNat ≠ 255 → t = { s with S := t.S, ki := t.ki, kj := t.kj }) ∧
      (s.ki.toNat = 255 →
        t = { s with S := t.S, ki := t.ki, kj := t.kj, pi := 0#8, pj := 0#8, phase := .stream })) ∧
  (∀ s : State, s.err = false → s.phase ≠ .ksa →
    exec .ksastep s = .next { s with err := true, ecode := .phase }) ∧
  decode 0x21000000#32 = .instr .ksastep ∧ ReservedBitsRaise 0x21#8 0 24

/-- The model's choice (log entry 6): in the two states no run reaches where R122's indices are undefined, KSASTEP stops by
name. -/
def Obligations.KsastepStopsWhereIndicesAreUndefined : Prop :=
  ∀ s : State, s.err = false → s.phase = .ksa →
    (s.klen = 0#9 → exec .ksastep s = .fault .scheduleKeyEmpty) ∧
    (s.klen ≠ 0#9 → 255 < s.ki.toNat → exec .ksastep s = .fault .scheduleIndex)

/-- R124: KSA runs to the end of a schedule from the identity, or raises E_EMPTY_KEY with no state changed. -/
def Obligations.KsaRunsTheWholeSchedule : Prop :=
  (∀ s : State, s.err = false → s.klen ≠ 0#9 →
    ∃ t u, exec .ksainit s = .next u ∧ exec .ksa s = .next t ∧
      execAll (List.replicate 256 .ksastep) u = .next t ∧ t.ki = 256#9 ∧
      t = { s with S := t.S, ki := t.ki, kj := t.kj, pi := 0#8, pj := 0#8, phase := .stream }) ∧
  (∀ s : State, s.err = false → s.klen = 0#9 → exec .ksa s = .next { s with err := true, ecode := .emptyKey }) ∧
  decode 0x22000000#32 = .instr .ksa ∧ ReservedBitsRaise 0x22#8 0 24

/-- R125: KSA has the effect of KSAINIT and 256 KSASTEP, and both end with `(S, KJ) = Ksa(KEY[0..KLEN-1])` of R120. -/
def Obligations.KsaComputesTheReferenceSchedule : Prop :=
  ∀ s : State, s.err = false → 1 ≤ s.klen.toNat →
    ∃ t, exec .ksa s = .next t ∧ execAll (.ksainit :: List.replicate 256 .ksastep) s = .next t ∧
      (∀ i : Byte, (byteAt t.S i).toNat = (refKsa (loadedKey s)).1 i.toNat) ∧
      t.kj.toNat = (refKsa (loadedKey s)).2 ∧ t.ki = 256#9 ∧ t.pi = 0#8 ∧ t.pj = 0#8 ∧ t.phase = .stream

/-- R126: the schedule keeps S a permutation after every iteration and never writes KEY or KLEN. -/
def Obligations.ScheduleKeepsThePermutation : Prop :=
  (∀ s t : State, s.err = false → s.klen ≠ 0#9 → exec .ksainit s = .next t ∨ exec .ksa s = .next t →
    IsPermutation t.S ∧ t.key = s.key ∧ t.klen = s.klen) ∧
  (∀ s t : State, IsPermutation s.S → exec .ksastep s = .next t →
    IsPermutation t.S ∧ t.key = s.key ∧ t.klen = s.klen)

/-- R141, R142: the new PI and PJ, the swap under them, and DOUT = D XOR the keystream byte read after the swap. -/
def Obligations.XorbGivesOneKeystreamByte : Prop :=
  (∀ (s : State) (d j : Byte), s.err = false → s.phase = .stream →
    j.toNat = (s.pj.toNat + (byteAt s.S (s.pi + 1#8)).toNat) % 256 →
    ∃ t, exec (.xorb d) s = .next t ∧
      t.pi.toNat = (s.pi.toNat + 1) % 256 ∧ t.pj = j ∧
      (∀ x, byteAt t.S x =
        if x = t.pi then byteAt s.S j else if x = j then byteAt s.S t.pi else byteAt s.S x) ∧
      (∀ k : Byte, k.toNat = ((byteAt t.S t.pi).toNat + (byteAt t.S t.pj).toNat) % 256 →
        t.dout = d ^^^ byteAt t.S k) ∧
      t = { s with S := t.S, pi := t.pi, pj := t.pj, dout := t.dout }) ∧
  (∀ (s : State) (d : Byte), s.err = false → s.phase ≠ .stream →
    exec (.xorb d) s = .next { s with err := true, ecode := .phase }) ∧
  decode 0x30000050#32 = .instr (.xorb 0x50#8) ∧ ReservedBitsRaise 0x30#8 8 16

/-! ## Sequences of commands -/

/-- R103: loading a key, its KEYWRs in any order, leaves the key bytes and the length and nothing else; bytes at `m >= n` keep
their values and no KSA reads them. -/
def Obligations.LoadingAKey : Prop :=
  (∀ (s : State) (key : List Byte) (ws : List Instr), s.err = false → s.phase ≠ .ksa →
    1 ≤ key.length → key.length ≤ 256 → ws.Perm (keyWrites 0 key) →
    ∃ t, execAll (ws ++ [.keylen (BitVec.ofNat 9 key.length)]) s = .next t ∧
      t.klen.toNat = key.length ∧ (∀ m : Byte, byteAt t.key m = key.getD m.toNat (byteAt s.key m)) ∧
      t = { s with key := t.key, klen := t.klen }) ∧
  (∀ s u t : State, s.err = false → 1 ≤ s.klen.toNat →
    u = { s with key := u.key } → (∀ m : Byte, m.toNat < s.klen.toNat → byteAt u.key m = byteAt s.key m) →
    exec .ksa s = .next t → exec .ksa u = .next { t with key := u.key })

/-- R6: with KLEN = 256 and the first 256 bytes of a longer key in KEY, KSA's result is `Ksa` of the whole key (R120), and
loading those 256 bytes (R103) makes such a state. -/
def Obligations.LongKeySchedulesAsItsFirst256Bytes : Prop :=
  (∀ (s : State) (key : List Byte), s.err = false → 256 < key.length → s.klen = 256#9 →
    (∀ m : Byte, byteAt s.key m = key.getD m.toNat 0#8) →
    ∃ t, exec .ksa s = .next t ∧ (∀ i : Byte, (byteAt t.S i).toNat = (refKsa key).1 i.toNat) ∧
      t.kj.toNat = (refKsa key).2) ∧
  (∀ (s : State) (key : List Byte), s.err = false → s.phase ≠ .ksa → 256 < key.length →
    ∃ t, execAll (loadKey (key.take 256) ++ [.ksa]) s = .next t ∧ t.klen = 256#9 ∧
      (∀ i : Byte, (byteAt t.S i).toNat = (refKsa key).1 i.toNat) ∧ t.kj.toNat = (refKsa key).2)

/-- R143: loading a key, KSA, then one XORB and one read of DOUT per message byte shows the host `CipherOperation(key, m)`. The
key is loaded by R103, so its premises on PHASE and the length stand here (log entry 14). -/
def Obligations.CipherOperationAsASequence : Prop :=
  ∀ (s : State) (key m : List Byte), s.err = false → s.phase ≠ .ksa → 1 ≤ key.length → key.length ≤ 256 →
    s.pending = cipherAccesses key m →
    ∃ t, Sys2Proof.core.run (cipherAccesses key m).length s = .next t ∧ t.err = false ∧ t.pending = [] ∧
      t.reads = s.reads ++ (refCipher key m).map fun b => b.setWidth 32

/-- R144: serving R143's accesses for a message, then its accesses for the bytes read, under one key, shows the host the
message; R145: as many bytes are read as the message has. The second run may start from any state R143 admits, the end of the
first among them. The premises on PHASE and the key's length are R103's (log entry 14). -/
def Obligations.CipherOperationIsAnInvolution : Prop :=
  ∀ (s : State) (key m : List Byte), s.err = false → s.phase ≠ .ksa → 1 ≤ key.length → key.length ≤ 256 →
    s.pending = cipherAccesses key m →
    ∃ (t : State) (out : List Byte), Sys2Proof.core.run (cipherAccesses key m).length s = .next t ∧
      t.reads = s.reads ++ (out.map fun b => b.setWidth 32) ∧ out.length = m.length ∧
      t.err = false ∧ t.phase = .stream ∧ t.pending = [] ∧
      ∀ v : State, v.err = false → v.phase ≠ .ksa → v.pending = cipherAccesses key out →
        ∃ u, Sys2Proof.core.run (cipherAccesses key out).length v = .next u ∧ u.err = false ∧
          u.reads = v.reads ++ m.map fun b => b.setWidth 32

/-- R144: the keystream byte of an XORB does not depend on its data byte, nor does the state it leaves, but for DOUT. -/
def Obligations.KeystreamDoesNotDependOnData : Prop :=
  ∀ (s : State) (c d : Byte), s.err = false → s.phase = .stream →
    ∃ t u, exec (.xorb c) s = .next t ∧ exec (.xorb d) s = .next u ∧
      c ^^^ t.dout = d ^^^ u.dout ∧ u = { t with dout := u.dout }

/-- R216: NOP, KEYRD, SRD, KEYWR, KEYLEN and port reads between XORBs do not change the keystream. -/
def Obligations.OtherCommandsDoNotDisturbTheKeystream : Prop :=
  ∀ (s t : State) (d : Byte), s.err = false → s.phase = .stream → t.err = false →
    (∃ i : Instr, i.op ∈ [Op.nop, .keyrd, .srd, .keywr, .keylen] ∧ exec i s = .next t) ∨
      (∃ (a : PortAddr) (rest : List HostEvent), s.pending = .read a :: rest ∧ step s = .next t) →
    ∃ u v, exec (.xorb d) s = .next u ∧ exec (.xorb d) t = .next v ∧
      v.dout = u.dout ∧ v.S = u.S ∧ v.pi = u.pi ∧ v.pj = u.pj ∧ v.phase = u.phase

/-! ## The host port (20_memory.md) -/

/-- R53, R54, R56, R57: the fields of STATUS, DOUT, KIDX and PIDX, with the codes of R181; the registers are read-only. -/
def Obligations.PortRegisterLayouts : Prop :=
  ∀ s : State,
    (portRead 1#3 s).toNat =
      s.klen.toNat * 2 ^ 8 + s.ecode.code.toNat * 2 ^ 4 + (if s.err then 1 else 0) * 2 ^ 2 + s.phase.code.toNat ∧
    (portRead 1#3 s).extractLsb' 0 2 ≠ 3#2 ∧
    (portRead 2#3 s).toNat = s.dout.toNat ∧
    (portRead 3#3 s).toNat = s.kj.toNat * 2 ^ 16 + s.ki.toNat ∧
    (portRead 4#3 s).toNat = s.pj.toNat * 2 ^ 16 + s.pi.toNat ∧
    (∀ (a : PortAddr) (w : Word), a ≠ 0#3 → portWrite a w s = .next s) ∧
    [ErrorCode.none, .illegalOp, .rsvdField, .phase, .klenRange, .emptyKey].map (fun c => c.code.toNat) =
      [0, 1, 2, 3, 4, 5]

/-- R55, R58 (the read), R52 (the read): ID is constant; CMD and the reserved addresses read 0; `err_o` is ERR (R190). -/
def Obligations.ConstantPortReads : Prop :=
  ∀ s : State, portRead 5#3 s = 0x52433401#32 ∧ portRead 0#3 s = 0#32 ∧ portRead 6#3 s = 0#32 ∧
    portRead 7#3 s = 0#32 ∧ s.errO = s.err

/-- R63: a port read changes nothing but what the host has seen, and two reads with no write between them answer alike. -/
def Obligations.PortReadsHaveNoSideEffect : Prop :=
  (∀ (s : State) (a : PortAddr) (rest : List HostEvent), s.pending = .read a :: rest →
    step s = .next { s with pending := rest, reads := s.reads ++ [portRead a s] }) ∧
  (∀ (s : State) (a b : PortAddr) (rest : List HostEvent), s.pending = .read a :: .read b :: .read a :: rest →
    ∃ v x, Sys2Proof.core.run 3 s = .next { s with pending := rest, reads := s.reads ++ [v, x, v] })

/-- R58, R59: a port write to any address but CMD's has no effect and raises no error. -/
def Obligations.WritesOffCmdAreIgnored : Prop :=
  (∀ (s : State) (a : PortAddr) (w : Word) (rest : List HostEvent), a ≠ 0#3 → s.pending = .write a w :: rest →
    step s = .next { s with pending := rest }) ∧
  (∀ s : State, portRead 6#3 s = 0#32 ∧ portRead 7#3 s = 0#32)

/-- R64: an access sees none of a later one: what waits behind it changes nothing of its effect. -/
def Obligations.LaterAccessesDoNotMatter : Prop :=
  ∀ (s t : State) (e : HostEvent) (more : List HostEvent), s.pending = [e] → step s = .next t →
    step { s with pending := e :: more } = .next { t with pending := more }

/-- R2: the block changes its state only on a command word or on reset: with no host event waiting it stays as it is. -/
def Obligations.NoAutonomousStep : Prop :=
  ∀ s : State, s.pending = [] → step s = .next s

/-! ## Reset (70_reset_and_hazards.md) -/

/-- R211: the reset state and what the port then reads. -/
def Obligations.ResetStateAndItsPortReads : Prop :=
  (∀ k, byteAt State.reset.key k = 0x00#8) ∧ State.reset.klen = 0#9 ∧ State.reset.ki = 0#9 ∧ State.reset.kj = 0#8 ∧
  State.reset.pi = 0#8 ∧ State.reset.pj = 0#8 ∧ State.reset.phase = .idle ∧ State.reset.dout = 0x00#8 ∧
  State.reset.err = false ∧ State.reset.ecode = .none ∧ State.reset.errO = false ∧
  portRead 1#3 State.reset = 0#32 ∧ portRead 2#3 State.reset = 0#32 ∧ portRead 3#3 State.reset = 0#32 ∧
  portRead 4#3 State.reset = 0#32 ∧ portRead 5#3 State.reset = 0x52433401#32

/-- R210, R211: the reset input puts the block in the reset state from any state; S is left unspecified (a free value), and
accesses still waiting are held. -/
def Obligations.ResetInputGivesTheResetState : Prop :=
  ∀ (s : State) (rest : List HostEvent), s.pending = .reset :: rest →
    ∃ t, step s = .next t ∧ t.reads = s.reads ∧
      t = { State.reset with S := t.S, pending := rest, reads := t.reads, freeUse := t.freeUse }

/-! ## Whole-machine rules -/

/-- R30 at reset. -/
def Obligations.InvariantsHoldAtReset : Prop :=
  BlockInv State.reset

/-- R30, R22: every step keeps the invariants, from every state that meets them. -/
def Obligations.EveryStepKeepsTheInvariants : Prop :=
  ∀ s t : State, BlockInv s → step s = .next t → BlockInv t

/-- R191: under the invariants no step faults or refuses. -/
def Obligations.InvariantStatesGoOn : Prop :=
  ∀ s : State, BlockInv s → ∃ t, step s = .next t

/-- R21: the content of S in IDLE is never observable: runs from two states that differ only in it never differ to the host. -/
def Obligations.HiddenContentOfSIsUnobservable : Prop :=
  ∀ (n : Nat) (s t : State), SameToHost s t → SameOutcome (Sys2Proof.core.run n s) (Sys2Proof.core.run n t)

/-- R26: PHASE's three values and its transitions, and that nothing else changes PHASE. -/
def Obligations.PhaseTransitions : Prop :=
  (Phase.idle.code = 0#2 ∧ Phase.ksa.code = 1#2 ∧ Phase.stream.code = 2#2 ∧ ∀ p : Phase, p.code ≠ 3#2) ∧
  State.reset.phase = .idle ∧
  (∀ s t : State, exec .clr s = .next t → t.phase = .idle) ∧
  (∀ s t : State, exec .ksainit s = .next t → s.err = false → t.err = false → t.phase = .ksa) ∧
  (∀ s t : State, exec .ksa s = .next t → s.err = false → t.err = false → t.phase = .stream) ∧
  (∀ s t : State, exec .ksastep s = .next t → s.err = false → t.err = false →
    s.phase = .ksa ∧ (t.ki = 256#9 → t.phase = .stream) ∧ (t.ki ≠ 256#9 → t.phase = .ksa)) ∧
  (∀ s t : State, step s = .next t → t.phase ≠ s.phase →
    (∃ rest, s.pending = .reset :: rest ∧ t.phase = .idle) ∨
    ∃ w i rest, s.pending = .write 0#3 w :: rest ∧ decode w = .instr i ∧
      ((i = .clr ∧ t.phase = .idle) ∨ (i = .ksainit ∧ t.phase = .ksa) ∨ (i = .ksa ∧ t.phase = .stream) ∨
        (i = .ksastep ∧ s.phase = .ksa ∧ t.phase = .stream ∧ t.ki = 256#9)))

/-- The "written by" column of R32 for the commands: a register changes only under the commands named there. -/
def Obligations.OnlyTheNamedCommandsWriteEachRegister : Prop :=
  ∀ (i : Instr) (s t : State), exec i s = .next t →
    (t.S ≠ s.S → i.op ∈ [Op.ksainit, .ksastep, .ksa, .xorb]) ∧
    (t.key ≠ s.key → i.op ∈ [Op.keywr, .clr]) ∧
    (t.klen ≠ s.klen → i.op ∈ [Op.keylen, .clr]) ∧
    (t.ki ≠ s.ki ∨ t.kj ≠ s.kj → i.op ∈ [Op.ksainit, .ksastep, .ksa, .clr]) ∧
    (t.pi ≠ s.pi ∨ t.pj ≠ s.pj → i.op ∈ [Op.ksainit, .ksastep, .ksa, .xorb, .clr]) ∧
    (t.phase ≠ s.phase → i.op ∈ [Op.ksainit, .ksastep, .ksa, .clr]) ∧
    (t.dout ≠ s.dout → i.op ∈ [Op.xorb, .srd, .keyrd, .clr]) ∧
    (t.err ≠ s.err ∨ t.ecode ≠ s.ecode → t.err = true ∨ i = .clr) ∧
    t.pending = s.pending ∧ t.reads = s.reads ∧ t.freeUse = s.freeUse
end

