-- ==== Sys2Proof/Laws/State.lean ====
section
/-! SUPPORT. One lemma per field per register write: what it sets, and that it leaves every other field alone. -/

namespace Sys2Proof.Machine

variable (s : State)

@[simp] theorem State.setS_S (v : Bytes256) : (s.setS v).S = v := rfl
@[simp] theorem State.setS_key (v : Bytes256) : (s.setS v).key = s.key := rfl
@[simp] theorem State.setS_klen (v : Bytes256) : (s.setS v).klen = s.klen := rfl
@[simp] theorem State.setS_ki (v : Bytes256) : (s.setS v).ki = s.ki := rfl
@[simp] theorem State.setS_kj (v : Bytes256) : (s.setS v).kj = s.kj := rfl
@[simp] theorem State.setS_pi (v : Bytes256) : (s.setS v).pi = s.pi := rfl
@[simp] theorem State.setS_pj (v : Bytes256) : (s.setS v).pj = s.pj := rfl
@[simp] theorem State.setS_phase (v : Bytes256) : (s.setS v).phase = s.phase := rfl
@[simp] theorem State.setS_dout (v : Bytes256) : (s.setS v).dout = s.dout := rfl
@[simp] theorem State.setS_err (v : Bytes256) : (s.setS v).err = s.err := rfl
@[simp] theorem State.setS_ecode (v : Bytes256) : (s.setS v).ecode = s.ecode := rfl
@[simp] theorem State.setS_pending (v : Bytes256) : (s.setS v).pending = s.pending := rfl
@[simp] theorem State.setS_reads (v : Bytes256) : (s.setS v).reads = s.reads := rfl
@[simp] theorem State.setS_freeUse (v : Bytes256) : (s.setS v).freeUse = s.freeUse := rfl

@[simp] theorem State.setKey_S (v : Bytes256) : (s.setKey v).S = s.S := rfl
@[simp] theorem State.setKey_key (v : Bytes256) : (s.setKey v).key = v := rfl
@[simp] theorem State.setKey_klen (v : Bytes256) : (s.setKey v).klen = s.klen := rfl
@[simp] theorem State.setKey_ki (v : Bytes256) : (s.setKey v).ki = s.ki := rfl
@[simp] theorem State.setKey_kj (v : Bytes256) : (s.setKey v).kj = s.kj := rfl
@[simp] theorem State.setKey_pi (v : Bytes256) : (s.setKey v).pi = s.pi := rfl
@[simp] theorem State.setKey_pj (v : Bytes256) : (s.setKey v).pj = s.pj := rfl
@[simp] theorem State.setKey_phase (v : Bytes256) : (s.setKey v).phase = s.phase := rfl
@[simp] theorem State.setKey_dout (v : Bytes256) : (s.setKey v).dout = s.dout := rfl
@[simp] theorem State.setKey_err (v : Bytes256) : (s.setKey v).err = s.err := rfl
@[simp] theorem State.setKey_ecode (v : Bytes256) : (s.setKey v).ecode = s.ecode := rfl
@[simp] theorem State.setKey_pending (v : Bytes256) : (s.setKey v).pending = s.pending := rfl
@[simp] theorem State.setKey_reads (v : Bytes256) : (s.setKey v).reads = s.reads := rfl
@[simp] theorem State.setKey_freeUse (v : Bytes256) : (s.setKey v).freeUse = s.freeUse := rfl

@[simp] theorem State.setKlen_S (n : Count) : (s.setKlen n).S = s.S := rfl
@[simp] theorem State.setKlen_key (n : Count) : (s.setKlen n).key = s.key := rfl
@[simp] theorem State.setKlen_klen (n : Count) : (s.setKlen n).klen = n := rfl
@[simp] theorem State.setKlen_ki (n : Count) : (s.setKlen n).ki = s.ki := rfl
@[simp] theorem State.setKlen_kj (n : Count) : (s.setKlen n).kj = s.kj := rfl
@[simp] theorem State.setKlen_pi (n : Count) : (s.setKlen n).pi = s.pi := rfl
@[simp] theorem State.setKlen_pj (n : Count) : (s.setKlen n).pj = s.pj := rfl
@[simp] theorem State.setKlen_phase (n : Count) : (s.setKlen n).phase = s.phase := rfl
@[simp] theorem State.setKlen_dout (n : Count) : (s.setKlen n).dout = s.dout := rfl
@[simp] theorem State.setKlen_err (n : Count) : (s.setKlen n).err = s.err := rfl
@[simp] theorem State.setKlen_ecode (n : Count) : (s.setKlen n).ecode = s.ecode := rfl
@[simp] theorem State.setKlen_pending (n : Count) : (s.setKlen n).pending = s.pending := rfl
@[simp] theorem State.setKlen_reads (n : Count) : (s.setKlen n).reads = s.reads := rfl
@[simp] theorem State.setKlen_freeUse (n : Count) : (s.setKlen n).freeUse = s.freeUse := rfl

@[simp] theorem State.setKi_S (i : Count) : (s.setKi i).S = s.S := rfl
@[simp] theorem State.setKi_key (i : Count) : (s.setKi i).key = s.key := rfl
@[simp] theorem State.setKi_klen (i : Count) : (s.setKi i).klen = s.klen := rfl
@[simp] theorem State.setKi_ki (i : Count) : (s.setKi i).ki = i := rfl
@[simp] theorem State.setKi_kj (i : Count) : (s.setKi i).kj = s.kj := rfl
@[simp] theorem State.setKi_pi (i : Count) : (s.setKi i).pi = s.pi := rfl
@[simp] theorem State.setKi_pj (i : Count) : (s.setKi i).pj = s.pj := rfl
@[simp] theorem State.setKi_phase (i : Count) : (s.setKi i).phase = s.phase := rfl
@[simp] theorem State.setKi_dout (i : Count) : (s.setKi i).dout = s.dout := rfl
@[simp] theorem State.setKi_err (i : Count) : (s.setKi i).err = s.err := rfl
@[simp] theorem State.setKi_ecode (i : Count) : (s.setKi i).ecode = s.ecode := rfl
@[simp] theorem State.setKi_pending (i : Count) : (s.setKi i).pending = s.pending := rfl
@[simp] theorem State.setKi_reads (i : Count) : (s.setKi i).reads = s.reads := rfl
@[simp] theorem State.setKi_freeUse (i : Count) : (s.setKi i).freeUse = s.freeUse := rfl

@[simp] theorem State.setKj_S (j : Byte) : (s.setKj j).S = s.S := rfl
@[simp] theorem State.setKj_key (j : Byte) : (s.setKj j).key = s.key := rfl
@[simp] theorem State.setKj_klen (j : Byte) : (s.setKj j).klen = s.klen := rfl
@[simp] theorem State.setKj_ki (j : Byte) : (s.setKj j).ki = s.ki := rfl
@[simp] theorem State.setKj_kj (j : Byte) : (s.setKj j).kj = j := rfl
@[simp] theorem State.setKj_pi (j : Byte) : (s.setKj j).pi = s.pi := rfl
@[simp] theorem State.setKj_pj (j : Byte) : (s.setKj j).pj = s.pj := rfl
@[simp] theorem State.setKj_phase (j : Byte) : (s.setKj j).phase = s.phase := rfl
@[simp] theorem State.setKj_dout (j : Byte) : (s.setKj j).dout = s.dout := rfl
@[simp] theorem State.setKj_err (j : Byte) : (s.setKj j).err = s.err := rfl
@[simp] theorem State.setKj_ecode (j : Byte) : (s.setKj j).ecode = s.ecode := rfl
@[simp] theorem State.setKj_pending (j : Byte) : (s.setKj j).pending = s.pending := rfl
@[simp] theorem State.setKj_reads (j : Byte) : (s.setKj j).reads = s.reads := rfl
@[simp] theorem State.setKj_freeUse (j : Byte) : (s.setKj j).freeUse = s.freeUse := rfl

@[simp] theorem State.setPi_S (i : Byte) : (s.setPi i).S = s.S := rfl
@[simp] theorem State.setPi_key (i : Byte) : (s.setPi i).key = s.key := rfl
@[simp] theorem State.setPi_klen (i : Byte) : (s.setPi i).klen = s.klen := rfl
@[simp] theorem State.setPi_ki (i : Byte) : (s.setPi i).ki = s.ki := rfl
@[simp] theorem State.setPi_kj (i : Byte) : (s.setPi i).kj = s.kj := rfl
@[simp] theorem State.setPi_pi (i : Byte) : (s.setPi i).pi = i := rfl
@[simp] theorem State.setPi_pj (i : Byte) : (s.setPi i).pj = s.pj := rfl
@[simp] theorem State.setPi_phase (i : Byte) : (s.setPi i).phase = s.phase := rfl
@[simp] theorem State.setPi_dout (i : Byte) : (s.setPi i).dout = s.dout := rfl
@[simp] theorem State.setPi_err (i : Byte) : (s.setPi i).err = s.err := rfl
@[simp] theorem State.setPi_ecode (i : Byte) : (s.setPi i).ecode = s.ecode := rfl
@[simp] theorem State.setPi_pending (i : Byte) : (s.setPi i).pending = s.pending := rfl
@[simp] theorem State.setPi_reads (i : Byte) : (s.setPi i).reads = s.reads := rfl
@[simp] theorem State.setPi_freeUse (i : Byte) : (s.setPi i).freeUse = s.freeUse := rfl

@[simp] theorem State.setPj_S (j : Byte) : (s.setPj j).S = s.S := rfl
@[simp] theorem State.setPj_key (j : Byte) : (s.setPj j).key = s.key := rfl
@[simp] theorem State.setPj_klen (j : Byte) : (s.setPj j).klen = s.klen := rfl
@[simp] theorem State.setPj_ki (j : Byte) : (s.setPj j).ki = s.ki := rfl
@[simp] theorem State.setPj_kj (j : Byte) : (s.setPj j).kj = s.kj := rfl
@[simp] theorem State.setPj_pi (j : Byte) : (s.setPj j).pi = s.pi := rfl
@[simp] theorem State.setPj_pj (j : Byte) : (s.setPj j).pj = j := rfl
@[simp] theorem State.setPj_phase (j : Byte) : (s.setPj j).phase = s.phase := rfl
@[simp] theorem State.setPj_dout (j : Byte) : (s.setPj j).dout = s.dout := rfl
@[simp] theorem State.setPj_err (j : Byte) : (s.setPj j).err = s.err := rfl
@[simp] theorem State.setPj_ecode (j : Byte) : (s.setPj j).ecode = s.ecode := rfl
@[simp] theorem State.setPj_pending (j : Byte) : (s.setPj j).pending = s.pending := rfl
@[simp] theorem State.setPj_reads (j : Byte) : (s.setPj j).reads = s.reads := rfl
@[simp] theorem State.setPj_freeUse (j : Byte) : (s.setPj j).freeUse = s.freeUse := rfl

@[simp] theorem State.setPhase_S (p : Phase) : (s.setPhase p).S = s.S := rfl
@[simp] theorem State.setPhase_key (p : Phase) : (s.setPhase p).key = s.key := rfl
@[simp] theorem State.setPhase_klen (p : Phase) : (s.setPhase p).klen = s.klen := rfl
@[simp] theorem State.setPhase_ki (p : Phase) : (s.setPhase p).ki = s.ki := rfl
@[simp] theorem State.setPhase_kj (p : Phase) : (s.setPhase p).kj = s.kj := rfl
@[simp] theorem State.setPhase_pi (p : Phase) : (s.setPhase p).pi = s.pi := rfl
@[simp] theorem State.setPhase_pj (p : Phase) : (s.setPhase p).pj = s.pj := rfl
@[simp] theorem State.setPhase_phase (p : Phase) : (s.setPhase p).phase = p := rfl
@[simp] theorem State.setPhase_dout (p : Phase) : (s.setPhase p).dout = s.dout := rfl
@[simp] theorem State.setPhase_err (p : Phase) : (s.setPhase p).err = s.err := rfl
@[simp] theorem State.setPhase_ecode (p : Phase) : (s.setPhase p).ecode = s.ecode := rfl
@[simp] theorem State.setPhase_pending (p : Phase) : (s.setPhase p).pending = s.pending := rfl
@[simp] theorem State.setPhase_reads (p : Phase) : (s.setPhase p).reads = s.reads := rfl
@[simp] theorem State.setPhase_freeUse (p : Phase) : (s.setPhase p).freeUse = s.freeUse := rfl

@[simp] theorem State.setDout_S (b : Byte) : (s.setDout b).S = s.S := rfl
@[simp] theorem State.setDout_key (b : Byte) : (s.setDout b).key = s.key := rfl
@[simp] theorem State.setDout_klen (b : Byte) : (s.setDout b).klen = s.klen := rfl
@[simp] theorem State.setDout_ki (b : Byte) : (s.setDout b).ki = s.ki := rfl
@[simp] theorem State.setDout_kj (b : Byte) : (s.setDout b).kj = s.kj := rfl
@[simp] theorem State.setDout_pi (b : Byte) : (s.setDout b).pi = s.pi := rfl
@[simp] theorem State.setDout_pj (b : Byte) : (s.setDout b).pj = s.pj := rfl
@[simp] theorem State.setDout_phase (b : Byte) : (s.setDout b).phase = s.phase := rfl
@[simp] theorem State.setDout_dout (b : Byte) : (s.setDout b).dout = b := rfl
@[simp] theorem State.setDout_err (b : Byte) : (s.setDout b).err = s.err := rfl
@[simp] theorem State.setDout_ecode (b : Byte) : (s.setDout b).ecode = s.ecode := rfl
@[simp] theorem State.setDout_pending (b : Byte) : (s.setDout b).pending = s.pending := rfl
@[simp] theorem State.setDout_reads (b : Byte) : (s.setDout b).reads = s.reads := rfl
@[simp] theorem State.setDout_freeUse (b : Byte) : (s.setDout b).freeUse = s.freeUse := rfl

@[simp] theorem State.setError_S (e : Bool) (c : ErrorCode) : (s.setError e c).S = s.S := rfl
@[simp] theorem State.setError_key (e : Bool) (c : ErrorCode) : (s.setError e c).key = s.key := rfl
@[simp] theorem State.setError_klen (e : Bool) (c : ErrorCode) : (s.setError e c).klen = s.klen := rfl
@[simp] theorem State.setError_ki (e : Bool) (c : ErrorCode) : (s.setError e c).ki = s.ki := rfl
@[simp] theorem State.setError_kj (e : Bool) (c : ErrorCode) : (s.setError e c).kj = s.kj := rfl
@[simp] theorem State.setError_pi (e : Bool) (c : ErrorCode) : (s.setError e c).pi = s.pi := rfl
@[simp] theorem State.setError_pj (e : Bool) (c : ErrorCode) : (s.setError e c).pj = s.pj := rfl
@[simp] theorem State.setError_phase (e : Bool) (c : ErrorCode) : (s.setError e c).phase = s.phase := rfl
@[simp] theorem State.setError_dout (e : Bool) (c : ErrorCode) : (s.setError e c).dout = s.dout := rfl
@[simp] theorem State.setError_err (e : Bool) (c : ErrorCode) : (s.setError e c).err = e := rfl
@[simp] theorem State.setError_ecode (e : Bool) (c : ErrorCode) : (s.setError e c).ecode = c := rfl
@[simp] theorem State.setError_pending (e : Bool) (c : ErrorCode) : (s.setError e c).pending = s.pending := rfl
@[simp] theorem State.setError_reads (e : Bool) (c : ErrorCode) : (s.setError e c).reads = s.reads := rfl
@[simp] theorem State.setError_freeUse (e : Bool) (c : ErrorCode) : (s.setError e c).freeUse = s.freeUse := rfl

@[simp] theorem State.setPending_S (es : List HostEvent) : (s.setPending es).S = s.S := rfl
@[simp] theorem State.setPending_key (es : List HostEvent) : (s.setPending es).key = s.key := rfl
@[simp] theorem State.setPending_klen (es : List HostEvent) : (s.setPending es).klen = s.klen := rfl
@[simp] theorem State.setPending_ki (es : List HostEvent) : (s.setPending es).ki = s.ki := rfl
@[simp] theorem State.setPending_kj (es : List HostEvent) : (s.setPending es).kj = s.kj := rfl
@[simp] theorem State.setPending_pi (es : List HostEvent) : (s.setPending es).pi = s.pi := rfl
@[simp] theorem State.setPending_pj (es : List HostEvent) : (s.setPending es).pj = s.pj := rfl
@[simp] theorem State.setPending_phase (es : List HostEvent) : (s.setPending es).phase = s.phase := rfl
@[simp] theorem State.setPending_dout (es : List HostEvent) : (s.setPending es).dout = s.dout := rfl
@[simp] theorem State.setPending_err (es : List HostEvent) : (s.setPending es).err = s.err := rfl
@[simp] theorem State.setPending_ecode (es : List HostEvent) : (s.setPending es).ecode = s.ecode := rfl
@[simp] theorem State.setPending_pending (es : List HostEvent) : (s.setPending es).pending = es := rfl
@[simp] theorem State.setPending_reads (es : List HostEvent) : (s.setPending es).reads = s.reads := rfl
@[simp] theorem State.setPending_freeUse (es : List HostEvent) : (s.setPending es).freeUse = s.freeUse := rfl

@[simp] theorem State.logRead_S (w : Word) : (s.logRead w).S = s.S := rfl
@[simp] theorem State.logRead_key (w : Word) : (s.logRead w).key = s.key := rfl
@[simp] theorem State.logRead_klen (w : Word) : (s.logRead w).klen = s.klen := rfl
@[simp] theorem State.logRead_ki (w : Word) : (s.logRead w).ki = s.ki := rfl
@[simp] theorem State.logRead_kj (w : Word) : (s.logRead w).kj = s.kj := rfl
@[simp] theorem State.logRead_pi (w : Word) : (s.logRead w).pi = s.pi := rfl
@[simp] theorem State.logRead_pj (w : Word) : (s.logRead w).pj = s.pj := rfl
@[simp] theorem State.logRead_phase (w : Word) : (s.logRead w).phase = s.phase := rfl
@[simp] theorem State.logRead_dout (w : Word) : (s.logRead w).dout = s.dout := rfl
@[simp] theorem State.logRead_err (w : Word) : (s.logRead w).err = s.err := rfl
@[simp] theorem State.logRead_ecode (w : Word) : (s.logRead w).ecode = s.ecode := rfl
@[simp] theorem State.logRead_pending (w : Word) : (s.logRead w).pending = s.pending := rfl
@[simp] theorem State.logRead_reads (w : Word) : (s.logRead w).reads = s.reads ++ [w] := rfl
@[simp] theorem State.logRead_freeUse (w : Word) : (s.logRead w).freeUse = s.freeUse := rfl

end Sys2Proof.Machine
end

