-- ==== Sys2Proof/Laws/Arrays.lean ====
section
/-! SUPPORT. Reading after writing the two 256-byte arrays, and the permutation invariant under identity and swap (R22). -/

namespace Sys2Proof.Machine

/-- Reading after a write: the written byte at its index, the old one elsewhere. -/
@[simp] theorem byteAt_setByteAt (v : Bytes256) (i b k : Byte) :
    byteAt (setByteAt v i b) k = if k = i then b else byteAt v k := by
  unfold byteAt setByteAt
  rw [Vector.getElem_set]
  by_cases h : k = i
  · simp [h]
  · have : i.toNat ≠ k.toNat := fun e => h (BitVec.eq_of_toNat_eq e.symm)
    simp [h, this]

@[simp] theorem byteAt_identityBytes (i : Byte) : byteAt identityBytes i = i := by
  unfold byteAt identityBytes
  simp

@[simp] theorem byteAt_zeroBytes (i : Byte) : byteAt zeroBytes i = 0#8 := by
  simp [byteAt, zeroBytes]

/-- Two arrays that read alike at every index are equal. -/
theorem bytes256_ext {v w : Bytes256} (h : ∀ i, byteAt v i = byteAt w i) : v = w := by
  apply Vector.ext
  intro i hi
  have := h (BitVec.ofNat 8 i)
  simpa [byteAt, Nat.mod_eq_of_lt hi] using this

/-- Everything a swap does: the two entries change places, every other entry stays. -/
theorem byteAt_swapBytes (v : Bytes256) (a b k : Byte) :
    byteAt (swapBytes v a b) k = if k = a then byteAt v b else if k = b then byteAt v a else byteAt v k := by
  simp only [swapBytes, byteAt_setByteAt]
  by_cases hb : k = b <;> by_cases ha : k = a <;> simp_all

/-- "When `a = b`, S is unchanged" (R9). -/
theorem swapBytes_self (v : Bytes256) (a : Byte) : swapBytes v a a = v :=
  bytes256_ext fun k => by rw [byteAt_swapBytes]; split <;> simp_all

theorem swapBytes_swapBytes (v : Bytes256) (a b : Byte) : swapBytes (swapBytes v a b) a b = v :=
  bytes256_ext fun k => by
    simp only [byteAt_swapBytes]
    by_cases ha : k = a <;> by_cases hb : k = b <;> by_cases hab : b = a <;> simp_all

theorem isPermutation_identity : IsPermutation identityBytes :=
  fun b => ⟨b, by simp⟩

/-- A swap maps a permutation to a permutation (R22). -/
theorem IsPermutation.swap {v : Bytes256} (h : IsPermutation v) (a b : Byte) : IsPermutation (swapBytes v a b) := by
  intro x
  obtain ⟨i, hi, uniq⟩ := h x
  refine ⟨if i = a then b else if i = b then a else i, ?_, fun k hk => ?_⟩
  · rw [byteAt_swapBytes]
    by_cases ha : i = a <;> by_cases hb : i = b <;> by_cases hab : b = a <;> simp_all
  · rw [byteAt_swapBytes] at hk
    by_cases ka : k = a
    · have := uniq b (by simpa [ka] using hk)
      by_cases hab : b = a <;> simp_all
    · by_cases kb : k = b
      · have hba : b ≠ a := fun e => ka (kb.trans e)
        have := uniq a (by simpa [kb, hba] using hk)
        simp_all
      · have := uniq k (by simpa [ka, kb] using hk)
        simp_all

end Sys2Proof.Machine
end

