-- ==== Sys2Proof/Laws/Ops.lean ====
section
/-! SUPPORT. One lemma for each shared operation that says all it does: the error entry and exits, the checks before a command's
rule, the start, the iteration and the end of a key schedule, and the keystream step. -/

namespace Sys2Proof.Machine

variable (s : State)

/-! ## Field by field -/

@[simp] theorem raiseError_S (c : ErrorCode) (s : State) : (raiseError c s).S = s.S := rfl
@[simp] theorem raiseError_key (c : ErrorCode) (s : State) : (raiseError c s).key = s.key := rfl
@[simp] theorem raiseError_klen (c : ErrorCode) (s : State) : (raiseError c s).klen = s.klen := rfl
@[simp] theorem raiseError_ki (c : ErrorCode) (s : State) : (raiseError c s).ki = s.ki := rfl
@[simp] theorem raiseError_kj (c : ErrorCode) (s : State) : (raiseError c s).kj = s.kj := rfl
@[simp] theorem raiseError_pi (c : ErrorCode) (s : State) : (raiseError c s).pi = s.pi := rfl
@[simp] theorem raiseError_pj (c : ErrorCode) (s : State) : (raiseError c s).pj = s.pj := rfl
@[simp] theorem raiseError_phase (c : ErrorCode) (s : State) : (raiseError c s).phase = s.phase := rfl
@[simp] theorem raiseError_dout (c : ErrorCode) (s : State) : (raiseError c s).dout = s.dout := rfl
@[simp] theorem raiseError_err (c : ErrorCode) (s : State) : (raiseError c s).err = true := rfl
@[simp] theorem raiseError_ecode (c : ErrorCode) (s : State) : (raiseError c s).ecode = c := rfl
@[simp] theorem raiseError_pending (c : ErrorCode) (s : State) : (raiseError c s).pending = s.pending := rfl
@[simp] theorem raiseError_reads (c : ErrorCode) (s : State) : (raiseError c s).reads = s.reads := rfl
@[simp] theorem raiseError_freeUse (c : ErrorCode) (s : State) : (raiseError c s).freeUse = s.freeUse := rfl

@[simp] theorem clear_S (s : State) : (clear s).S = s.S := rfl
@[simp] theorem clear_key (s : State) : (clear s).key = zeroBytes := rfl
@[simp] theorem clear_klen (s : State) : (clear s).klen = 0#9 := rfl
@[simp] theorem clear_ki (s : State) : (clear s).ki = 0#9 := rfl
@[simp] theorem clear_kj (s : State) : (clear s).kj = 0#8 := rfl
@[simp] theorem clear_pi (s : State) : (clear s).pi = 0#8 := rfl
@[simp] theorem clear_pj (s : State) : (clear s).pj = 0#8 := rfl
@[simp] theorem clear_phase (s : State) : (clear s).phase = .idle := rfl
@[simp] theorem clear_dout (s : State) : (clear s).dout = 0x00#8 := rfl
@[simp] theorem clear_err (s : State) : (clear s).err = false := rfl
@[simp] theorem clear_ecode (s : State) : (clear s).ecode = .none := rfl
@[simp] theorem clear_pending (s : State) : (clear s).pending = s.pending := rfl
@[simp] theorem clear_reads (s : State) : (clear s).reads = s.reads := rfl
@[simp] theorem clear_freeUse (s : State) : (clear s).freeUse = s.freeUse := rfl

@[simp] theorem hardReset_S (s : State) : (hardReset s).S = Config.sReset s.freeUse := rfl
@[simp] theorem hardReset_key (s : State) : (hardReset s).key = zeroBytes := rfl
@[simp] theorem hardReset_klen (s : State) : (hardReset s).klen = 0#9 := rfl
@[simp] theorem hardReset_ki (s : State) : (hardReset s).ki = 0#9 := rfl
@[simp] theorem hardReset_kj (s : State) : (hardReset s).kj = 0#8 := rfl
@[simp] theorem hardReset_pi (s : State) : (hardReset s).pi = 0#8 := rfl
@[simp] theorem hardReset_pj (s : State) : (hardReset s).pj = 0#8 := rfl
@[simp] theorem hardReset_phase (s : State) : (hardReset s).phase = .idle := rfl
@[simp] theorem hardReset_dout (s : State) : (hardReset s).dout = 0x00#8 := rfl
@[simp] theorem hardReset_err (s : State) : (hardReset s).err = false := rfl
@[simp] theorem hardReset_ecode (s : State) : (hardReset s).ecode = .none := rfl
@[simp] theorem hardReset_pending (s : State) : (hardReset s).pending = s.pending := rfl
@[simp] theorem hardReset_reads (s : State) : (hardReset s).reads = s.reads := rfl
@[simp] theorem hardReset_freeUse (s : State) : (hardReset s).freeUse = s.freeUse + 1 := rfl

/-! ## Errors -/

theorem raiseError_eq (c : ErrorCode) : raiseError c s = { s with err := true, ecode := c } := rfl

/-- CLR leaves what hardware reset leaves, but for S and the model's own fields (R161). -/
theorem clear_eq : clear s =
    { State.reset with S := s.S, pending := s.pending, reads := s.reads, freeUse := s.freeUse } := by
  simp only [clear, State.reset, zeroBytes]

theorem hardReset_eq : hardReset s =
    { State.reset with
      S := Config.sReset s.freeUse, pending := s.pending, reads := s.reads, freeUse := s.freeUse + 1 } := by
  simp only [hardReset, clear, State.reset, zeroBytes]

/-- A rejected word records its error, unless the block is in the error state already. -/
theorem rejectWord_eq (c : ErrorCode) : rejectWord c s = if s.err then s else raiseError c s := rfl

/-! ## The checks before a command's rule (R185) -/

theorem guarded_of_err {op : Op} {rule : State → Host.Outcome State Fault Refusal} {s : State} (h : s.err = true) :
    guarded op rule s = .next s := by simp [guarded, h]

theorem guarded_of_not_allowed {op : Op} {rule : State → Host.Outcome State Fault Refusal} {s : State}
    (he : s.err = false) (hp : allowed op s.phase = false) : guarded op rule s = .next (raiseError .phase s) := by
  simp [guarded, he, hp]

theorem guarded_of_allowed {op : Op} {rule : State → Host.Outcome State Fault Refusal} {s : State}
    (he : s.err = false) (hp : allowed op s.phase = true) : guarded op rule s = rule s := by
  simp [guarded, he, hp]

/-- All a guarded command can do: nothing, raise E_PHASE, or its own rule. -/
theorem guarded_cases {op : Op} {rule : State → Host.Outcome State Fault Refusal} {s : State}
    {o : Host.Outcome State Fault Refusal} (h : guarded op rule s = o) :
    (s.err = true ∧ o = .next s) ∨
    (s.err = false ∧ allowed op s.phase = false ∧ o = .next (raiseError .phase s)) ∨
    (s.err = false ∧ allowed op s.phase = true ∧ rule s = o) := by
  subst h
  cases he : s.err
  · cases hp : allowed op s.phase
    · exact .inr (.inl ⟨rfl, rfl, guarded_of_not_allowed he hp⟩)
    · exact .inr (.inr ⟨rfl, rfl, (guarded_of_allowed he hp).symm⟩)
  · exact .inl ⟨rfl, guarded_of_err he⟩

/-! ## The key schedule -/

theorem startSchedule_eq : startSchedule s =
    { s with S := identityBytes, ki := 0#9, kj := 0#8, pi := 0#8, pj := 0#8, phase := .ksa } := by
  simp only [startSchedule, State.setS, State.setKi, State.setKj, State.setPi, State.setPj, State.setPhase]

@[simp] theorem startSchedule_S (s : State) : (startSchedule s).S = identityBytes := rfl
@[simp] theorem startSchedule_key (s : State) : (startSchedule s).key = s.key := rfl
@[simp] theorem startSchedule_klen (s : State) : (startSchedule s).klen = s.klen := rfl
@[simp] theorem startSchedule_ki (s : State) : (startSchedule s).ki = 0#9 := rfl
@[simp] theorem startSchedule_kj (s : State) : (startSchedule s).kj = 0#8 := rfl
@[simp] theorem startSchedule_pi (s : State) : (startSchedule s).pi = 0#8 := rfl
@[simp] theorem startSchedule_pj (s : State) : (startSchedule s).pj = 0#8 := rfl
@[simp] theorem startSchedule_phase (s : State) : (startSchedule s).phase = .ksa := rfl
@[simp] theorem startSchedule_dout (s : State) : (startSchedule s).dout = s.dout := rfl
@[simp] theorem startSchedule_err (s : State) : (startSchedule s).err = s.err := rfl
@[simp] theorem startSchedule_ecode (s : State) : (startSchedule s).ecode = s.ecode := rfl
@[simp] theorem startSchedule_pending (s : State) : (startSchedule s).pending = s.pending := rfl
@[simp] theorem startSchedule_reads (s : State) : (startSchedule s).reads = s.reads := rfl
@[simp] theorem startSchedule_freeUse (s : State) : (startSchedule s).freeUse = s.freeUse := rfl

/-- An iteration before the last (R122). -/
theorem ksaIter_of_ne (h : s.ki + 1#9 ≠ 256#9) : ksaIter s =
    { s with S := swapBytes s.S (kiIndex s) (nextKj s), kj := nextKj s, ki := s.ki + 1#9 } := by
  simp [ksaIter, finishSchedule, h, swapS, State.setKi, State.setKj, State.setS]

/-- The last iteration (R122). -/
theorem ksaIter_of_last (h : s.ki + 1#9 = 256#9) : ksaIter s =
    { s with
      S := swapBytes s.S (kiIndex s) (nextKj s), kj := nextKj s, ki := 256#9, pi := 0#8, pj := 0#8
      phase := .stream } := by
  simp [ksaIter, finishSchedule, h, swapS, State.setKi, State.setKj, State.setS, State.setPi, State.setPj,
    State.setPhase]

theorem ksaIter_S : (ksaIter s).S = swapBytes s.S (kiIndex s) (nextKj s) := by
  unfold ksaIter finishSchedule; split <;> rfl

theorem ksaIter_kj : (ksaIter s).kj = nextKj s := by
  unfold ksaIter finishSchedule; split <;> rfl

theorem ksaIter_ki : (ksaIter s).ki = s.ki + 1#9 := by
  unfold ksaIter finishSchedule; split <;> rfl

/-- What an iteration never writes (R126, R122). -/
theorem ksaIter_frame : ksaIter s =
    { ksaIter s with
      key := s.key, klen := s.klen, dout := s.dout, err := s.err, ecode := s.ecode
      pending := s.pending, reads := s.reads, freeUse := s.freeUse } := by
  unfold ksaIter finishSchedule; split <;> rfl

@[simp] theorem ksaIter_key (s : State) : (ksaIter s).key = s.key := by
  unfold ksaIter finishSchedule; split <;> rfl
@[simp] theorem ksaIter_klen (s : State) : (ksaIter s).klen = s.klen := by
  unfold ksaIter finishSchedule; split <;> rfl
@[simp] theorem ksaIter_dout (s : State) : (ksaIter s).dout = s.dout := by
  unfold ksaIter finishSchedule; split <;> rfl
@[simp] theorem ksaIter_err (s : State) : (ksaIter s).err = s.err := by
  unfold ksaIter finishSchedule; split <;> rfl
@[simp] theorem ksaIter_ecode (s : State) : (ksaIter s).ecode = s.ecode := by
  unfold ksaIter finishSchedule; split <;> rfl
@[simp] theorem ksaIter_pending (s : State) : (ksaIter s).pending = s.pending := by
  unfold ksaIter finishSchedule; split <;> rfl
@[simp] theorem ksaIter_reads (s : State) : (ksaIter s).reads = s.reads := by
  unfold ksaIter finishSchedule; split <;> rfl
@[simp] theorem ksaIter_freeUse (s : State) : (ksaIter s).freeUse = s.freeUse := by
  unfold ksaIter finishSchedule; split <;> rfl

theorem ksaIters_add (m n : Nat) (s : State) : ksaIters (m + n) s = ksaIters n (ksaIters m s) := by
  induction m generalizing s with
  | zero => simp [ksaIters]
  | succ m ih => rw [Nat.succ_add]; exact ih (ksaIter s)

/-- A property each iteration keeps, any number of iterations keeps. -/
theorem ksaIters_induction {P : State → Prop} (step : ∀ t, P t → P (ksaIter t)) (n : Nat) {s : State} (h : P s) :
    P (ksaIters n s) := by
  induction n generalizing s with
  | zero => exact h
  | succ n ih => exact ih (step s h)

/-! ## The keystream -/

/-- All a keystream step does before its byte is read (R141). -/
theorem prgaAdvance_eq : prgaAdvance s =
    { s with
      pi := s.pi + 1#8, pj := s.pj + byteAt s.S (s.pi + 1#8)
      S := swapBytes s.S (s.pi + 1#8) (s.pj + byteAt s.S (s.pi + 1#8)) } := rfl

/-- The keystream byte after a step (R141). -/
theorem keystreamByte_eq : keystreamByte s = byteAt s.S (byteAt s.S s.pi + byteAt s.S s.pj) := rfl

end Sys2Proof.Machine
end

