-- ==== Sys2Proof/Laws/Exec.lean ====
section
/-! SUPPORT. Each command as its checks and its own rule (R185), and what every command but CLR does when a check stops it. -/

namespace Sys2Proof.Machine

theorem exec_nop (s : State) : exec .nop s = guarded .nop (fun s => .next s) s := rfl

theorem exec_clr (s : State) : exec .clr s = .next (clear s) := rfl

theorem exec_keywr (a d : Byte) (s : State) :
    exec (.keywr a d) s = guarded .keywr (fun s => .next (writeKey s a d)) s := rfl

theorem exec_keylen (n : Count) (s : State) :
    exec (.keylen n) s = guarded .keylen
      (fun s => if klenInRange n then .next (s.setKlen n) else .next (raiseError .klenRange s)) s := rfl

theorem exec_keyrd (a : Byte) (s : State) :
    exec (.keyrd a) s = guarded .keyrd (fun s => .next (s.setDout (readKey s a))) s := rfl

theorem exec_ksainit (s : State) :
    exec .ksainit s = guarded .ksainit
      (fun s => if s.klen = 0#9 then .next (raiseError .emptyKey s) else .next (startSchedule s)) s := rfl

theorem exec_ksastep (s : State) :
    exec .ksastep s = guarded .ksastep
      (fun s =>
        if s.klen = 0#9 then .fault .scheduleKeyEmpty
        else if 255 < s.ki.toNat then .fault .scheduleIndex
        else .next (ksaIter s)) s := rfl

theorem exec_ksa (s : State) :
    exec .ksa s = guarded .ksa
      (fun s =>
        if s.klen = 0#9 then .next (raiseError .emptyKey s) else .next (ksaIters 256 (startSchedule s))) s := rfl

theorem exec_xorb (d : Byte) (s : State) :
    exec (.xorb d) s = guarded .xorb
      (fun s => .next ((prgaAdvance s).setDout (d ^^^ keystreamByte (prgaAdvance s)))) s := rfl

theorem exec_srd (a : Byte) (s : State) :
    exec (.srd a) s = guarded .srd (fun s => .next (s.setDout (readS s a))) s := rfl

/-- In a phase that does not allow it, a command raises E_PHASE. -/
theorem exec_of_not_allowed {i : Instr} {s : State} (he : s.err = false) (hp : allowed i.op s.phase = false) :
    exec i s = .next (raiseError .phase s) := by
  cases i
  case nop => rw [exec_nop]; exact guarded_of_not_allowed he hp
  case clr => simp [Instr.op, allowed] at hp
  case keywr a d => rw [exec_keywr]; exact guarded_of_not_allowed he hp
  case keylen n => rw [exec_keylen]; exact guarded_of_not_allowed he hp
  case keyrd a => rw [exec_keyrd]; exact guarded_of_not_allowed he hp
  case ksainit => rw [exec_ksainit]; exact guarded_of_not_allowed he hp
  case ksastep => rw [exec_ksastep]; exact guarded_of_not_allowed he hp
  case ksa => rw [exec_ksa]; exact guarded_of_not_allowed he hp
  case xorb d => rw [exec_xorb]; exact guarded_of_not_allowed he hp
  case srd a => rw [exec_srd]; exact guarded_of_not_allowed he hp

/-- In the error state a command other than CLR is refused with no state change. -/
theorem exec_of_err {i : Instr} {s : State} (he : s.err = true) (hi : i ≠ .clr) : exec i s = .next s := by
  cases i
  case nop => rw [exec_nop]; exact guarded_of_err he
  case clr => contradiction
  case keywr a d => rw [exec_keywr]; exact guarded_of_err he
  case keylen n => rw [exec_keylen]; exact guarded_of_err he
  case keyrd a => rw [exec_keyrd]; exact guarded_of_err he
  case ksainit => rw [exec_ksainit]; exact guarded_of_err he
  case ksastep => rw [exec_ksastep]; exact guarded_of_err he
  case ksa => rw [exec_ksa]; exact guarded_of_err he
  case xorb d => rw [exec_xorb]; exact guarded_of_err he
  case srd a => rw [exec_srd]; exact guarded_of_err he

/-- The effect of a command's own rule, once every check is passed: the state it leaves. -/
def Effect (i : Instr) (s t : State) : Prop :=
  match i with
  | .nop => t = s
  | .clr => t = clear s
  | .keywr a d => t = writeKey s a d
  | .keylen n => klenInRange n = true ∧ t = s.setKlen n
  | .keyrd a => t = s.setDout (readKey s a)
  | .ksainit => s.klen ≠ 0#9 ∧ t = startSchedule s
  | .ksastep => s.klen ≠ 0#9 ∧ s.ki.toNat ≤ 255 ∧ t = ksaIter s
  | .ksa => s.klen ≠ 0#9 ∧ t = ksaIters 256 (startSchedule s)
  | .xorb d => t = (prgaAdvance s).setDout (d ^^^ keystreamByte (prgaAdvance s))
  | .srd a => t = s.setDout (readS s a)

/-- All a command can do when it goes on: CLR; a refusal in the error state; an error raised, with a code, from a state without
one; or its effect. -/
theorem exec_cases {i : Instr} {s t : State} (h : exec i s = .next t) :
    (i = .clr ∧ t = clear s) ∨ (s.err = true ∧ t = s) ∨ (s.err = false ∧ ∃ c, c ≠ .none ∧ t = raiseError c s) ∨
    (s.err = false ∧ allowed i.op s.phase = true ∧ Effect i s t) := by
  by_cases hi : i = .clr
  · subst hi; exact .inl ⟨rfl, (Host.Outcome.next.inj h).symm⟩
  rcases Bool.eq_false_or_eq_true s.err with he | he
  · rw [exec_of_err he hi] at h
    exact .inr (.inl ⟨he, (Host.Outcome.next.inj h).symm⟩)
  rcases Bool.eq_false_or_eq_true (allowed i.op s.phase) with ha | ha
  swap
  · rw [exec_of_not_allowed he ha] at h
    exact .inr (.inr (.inl ⟨he, _, by simp, (Host.Outcome.next.inj h).symm⟩))
  have raised : ∀ c, c ≠ .none → (.next (raiseError c s) : Host.Outcome State Fault Refusal) = .next t →
      ∃ c, c ≠ ErrorCode.none ∧ t = raiseError c s :=
    fun c hc h => ⟨c, hc, (Host.Outcome.next.inj h).symm⟩
  right; right
  cases i <;> simp only [Instr.op] at ha
  case clr => contradiction
  case nop =>
    rw [exec_nop, guarded_of_allowed he ha] at h
    exact .inr ⟨he, ha, (Host.Outcome.next.inj h).symm⟩
  case keywr a d =>
    rw [exec_keywr, guarded_of_allowed he ha] at h
    exact .inr ⟨he, ha, (Host.Outcome.next.inj h).symm⟩
  case keylen n =>
    rw [exec_keylen, guarded_of_allowed he ha] at h
    by_cases hn : klenInRange n = true
    · rw [if_pos hn] at h; exact .inr ⟨he, ha, hn, (Host.Outcome.next.inj h).symm⟩
    · rw [if_neg hn] at h; exact .inl ⟨he, raised _ (by simp) h⟩
  case keyrd a =>
    rw [exec_keyrd, guarded_of_allowed he ha] at h
    exact .inr ⟨he, ha, (Host.Outcome.next.inj h).symm⟩
  case ksainit =>
    rw [exec_ksainit, guarded_of_allowed he ha] at h
    by_cases hk : s.klen = 0#9
    · rw [if_pos hk] at h; exact .inl ⟨he, raised _ (by simp) h⟩
    · rw [if_neg hk] at h; exact .inr ⟨he, ha, hk, (Host.Outcome.next.inj h).symm⟩
  case ksastep =>
    rw [exec_ksastep, guarded_of_allowed he ha] at h
    by_cases hk : s.klen = 0#9
    · rw [if_pos hk] at h; contradiction
    rw [if_neg hk] at h
    by_cases hi : 255 < s.ki.toNat
    · rw [if_pos hi] at h; contradiction
    rw [if_neg hi] at h
    exact .inr ⟨he, ha, hk, Nat.le_of_not_lt hi, (Host.Outcome.next.inj h).symm⟩
  case ksa =>
    rw [exec_ksa, guarded_of_allowed he ha] at h
    by_cases hk : s.klen = 0#9
    · rw [if_pos hk] at h; exact .inl ⟨he, raised _ (by simp) h⟩
    · rw [if_neg hk] at h; exact .inr ⟨he, ha, hk, (Host.Outcome.next.inj h).symm⟩
  case xorb d =>
    rw [exec_xorb, guarded_of_allowed he ha] at h
    exact .inr ⟨he, ha, (Host.Outcome.next.inj h).symm⟩
  case srd a =>
    rw [exec_srd, guarded_of_allowed he ha] at h
    exact .inr ⟨he, ha, (Host.Outcome.next.inj h).symm⟩

end Sys2Proof.Machine
end

