-- ==== Sys2Proof/Laws/PerInstr.lean ====
section
/-! SUPPORT. Per command: its encoded word fits its row of the opcode table (R74). -/

namespace Sys2Proof.Laws.TableRow

/-- "A word `w` spells instruction `X` exactly when `(w AND mask(X)) = match(X)`" (R74): the encoded word does. -/
def Statement (i : Instr) : Prop := encode i &&& i.op.mask = i.op.matchWord

theorem nop : Statement .nop := by unfold Statement; decide

theorem clr : Statement .clr := by unfold Statement; decide

theorem keywr (a d : Byte) : Statement (.keywr a d) := by
  simp only [Statement, encode, Instr.op, Op.mask, Op.matchWord, Op.format, Format.mask, Op.code, inA, inD]
  ext i hi
  interval_cases i <;> simp

theorem keylen (n : Count) : Statement (.keylen n) := by
  simp only [Statement, encode, Instr.op, Op.mask, Op.matchWord, Op.format, Format.mask, Op.code, inN]
  ext i hi
  interval_cases i <;> simp

theorem keyrd (a : Byte) : Statement (.keyrd a) := by
  simp only [Statement, encode, Instr.op, Op.mask, Op.matchWord, Op.format, Format.mask, Op.code, inA]
  ext i hi
  interval_cases i <;> simp

theorem ksainit : Statement .ksainit := by unfold Statement; decide

theorem ksastep : Statement .ksastep := by unfold Statement; decide

theorem ksa : Statement .ksa := by unfold Statement; decide

theorem xorb (d : Byte) : Statement (.xorb d) := by
  simp only [Statement, encode, Instr.op, Op.mask, Op.matchWord, Op.format, Format.mask, Op.code, inD]
  ext i hi
  interval_cases i <;> simp

theorem srd (a : Byte) : Statement (.srd a) := by
  simp only [Statement, encode, Instr.op, Op.mask, Op.matchWord, Op.format, Format.mask, Op.code, inA]
  ext i hi
  interval_cases i <;> simp

end Sys2Proof.Laws.TableRow
end

