-- ==== Sys2Proof/Laws/Step.lean ====
section
/-! SUPPORT. What a step does, case by case: the host event it serves, a write to CMD, and a run over the events waiting. -/

namespace Sys2Proof.Machine

theorem step_waiting {s : State} (h : s.pending = []) : step s = .next s := by simp [step, h]

theorem step_event {s : State} {e : HostEvent} {rest : List HostEvent} (h : s.pending = e :: rest) :
    step s = serve e (s.setPending rest) := by simp [step, h]

/-- All a step can do when it goes on: wait, or serve the oldest event. -/
theorem step_cases {s : State} {o : Host.Outcome State Fault Refusal} (h : step s = o) :
    (s.pending = [] ∧ o = .next s) ∨ ∃ e rest, s.pending = e :: rest ∧ serve e (s.setPending rest) = o := by
  cases hp : s.pending with
  | nil => exact .inl ⟨rfl, by rw [← h, step_waiting hp]⟩
  | cons e rest => exact .inr ⟨e, rest, rfl, by rw [← h, step_event hp]⟩

theorem serve_reset (s : State) : serve .reset s = .next (hardReset s) := rfl

theorem serve_read (a : PortAddr) (s : State) : serve (.read a) s = .next (s.logRead (portRead a s)) := rfl

theorem serve_write_cmd (w : Word) (s : State) : serve (.write 0#3 w) s = runWord w s := by simp [serve, portWrite]

theorem serve_write_other {a : PortAddr} (h : a ≠ 0#3) (w : Word) (s : State) :
    serve (.write a w) s = .next s := by simp [serve, portWrite, h]

theorem runWord_of_instr {w : Word} {i : Instr} (h : decode w = .instr i) (s : State) : runWord w s = exec i s := by
  simp [runWord, h]

theorem runWord_of_illegal {w : Word} (h : decode w = .illegal) (s : State) :
    runWord w s = .next (rejectWord .illegalOp s) := by simp [runWord, h]

theorem runWord_of_reserved {w : Word} {op : Op} (h : decode w = .reserved op) (s : State) :
    runWord w s = .next (rejectWord .rsvdField s) := by simp [runWord, h]

/-- A run of one step more, when the first step goes on. -/
theorem run_succ_of_next {s t : State} (h : step s = .next t) (n : Nat) :
    Sys2Proof.core.run (n + 1) s = Sys2Proof.core.run n t := by
  have h' : Sys2Proof.core.step s = .next t := h
  simp only [Host.Core.run, h']

theorem run_zero (s : State) : Sys2Proof.core.run 0 s = .next s := rfl

end Sys2Proof.Machine
end

