-- ==== Sys2Proof/Laws/Port.lean ====
section
/-! SUPPORT. The register reads as numbers: a concatenation is a sum, and reads see neither the events waiting nor the log. -/

namespace Sys2Proof.Machine

/-- `{a, b}` as a number: `a` in the high bits (R7). -/
theorem toNat_append_add {m n : Nat} (a : BitVec m) (b : BitVec n) : (a ++ b).toNat = a.toNat * 2 ^ n + b.toNat := by
  rw [BitVec.toNat_append, ← Nat.shiftLeft_add_eq_or_of_lt b.isLt, Nat.shiftLeft_eq]

theorem portRead_setPending (a : PortAddr) (es : List HostEvent) (s : State) :
    portRead a (s.setPending es) = portRead a s := rfl

theorem portRead_logRead (a : PortAddr) (w : Word) (s : State) : portRead a (s.logRead w) = portRead a s := rfl

end Sys2Proof.Machine
end

