-- ==== Sys2Proof/Tests/Slice0.lean ====
section
/-! SUPPORT. The model's own tests: words written out from 30_encoding.md, the vectors of 95_test_vectors.md, one step each, and
for every statement with hypotheses a state and operands that meet them. -/

namespace Sys2Proof.Machine

/-! ## Small states -/

/-- The state a next outcome holds. -/
def nextState (o : Host.Outcome State Fault Refusal) : Option State :=
  match o with
  | .next t => some t
  | .fault _ => none
  | .refused _ => none

/-- Reset, with the phase, KLEN and KI given. -/
def stateAt (p : Phase) (klen ki : Count) : State := { State.reset with phase := p, klen := klen, ki := ki }

/-- Reset, in the error state with a code. -/
def stateInError (c : ErrorCode) : State := { State.reset with err := true, ecode := c }

/-- `s` with host events waiting. -/
def withEvents (s : State) (es : List HostEvent) : State := s.setPending es

/-- "key Key" of 95_test_vectors.md: KEY = 4B 65 79, KLEN = 3. -/
def keyKey : State :=
  { State.reset with
    key := setByteAt (setByteAt (setByteAt zeroBytes 0x00#8 0x4B#8) 0x01#8 0x65#8) 0x02#8 0x79#8, klen := 3#9 }

/-- The permutation of V-KSA-13: `S[0] = 0`, `S[i] = i + 1`, `S[255] = 1`. -/
def shifted : Bytes256 := Vector.ofFn fun i => if i.val = 0 then 0x00#8 else if i.val = 255 then 0x01#8 else BitVec.ofNat 8 (i.val + 1)

/-- A finished schedule with S as in V-KSA-13. -/
def streamState : State := { stateAt .stream 1#9 256#9 with S := shifted }

/-- A schedule just started over the key `00` (V-KSA-11) or at a later iteration. -/
def scheduleAt (ki : Count) : State := { stateAt .ksa 1#9 ki with S := identityBytes }

/-! ## Well-formedness: each check refuses an ill-formed line (R79, R80) -/

theorem test_wellFormed_keywr_index : (AsmLine.keywr 256 0).wellFormed = false := by decide
theorem test_wellFormed_keywr_data : (AsmLine.keywr 0 256).wellFormed = false := by decide
theorem test_wellFormed_keylen : (AsmLine.keylen 512).wellFormed = false ∧ (AsmLine.keylen 511).wellFormed = true := by decide
theorem test_wellFormed_keyrd : (AsmLine.keyrd 256).wellFormed = false := by decide
theorem test_wellFormed_xorb : (AsmLine.xorb 256).wellFormed = false := by decide
theorem test_wellFormed_srd : (AsmLine.srd 256).wellFormed = false := by decide
theorem test_wellFormed_loadkey_empty : (AsmLine.loadkey []).wellFormed = false := by decide
theorem test_wellFormed_loadkey_long : (AsmLine.loadkey (List.replicate 257 0)).wellFormed = false := by decide +kernel
theorem test_wellFormed_loadkey_byte : (AsmLine.loadkey [0, 256]).wellFormed = false := by decide
theorem test_wellFormed_loadkey128 : (AsmLine.loadkey128 (2 ^ 128)).wellFormed = false := by decide

/-! ## Decoding: words written out from R72 and R74 -/

theorem test_decode_nop : decode 0b00000000000000000000000000000000#32 = .instr .nop := by decide
theorem test_decode_clr : decode 0b00000001000000000000000000000000#32 = .instr .clr := by decide
theorem test_decode_keywr : decode 0b00010000000000010000000001100101#32 = .instr (.keywr 0x01#8 0x65#8) := by decide
theorem test_decode_keylen : decode 0b00010001000000000000000111111111#32 = .instr (.keylen 511#9) := by decide
theorem test_decode_keyrd : decode 0b00010010110010000000000000000000#32 = .instr (.keyrd 200#8) := by decide
theorem test_decode_ksainit : decode 0b00100000000000000000000000000000#32 = .instr .ksainit := by decide
theorem test_decode_ksastep : decode 0b00100001000000000000000000000000#32 = .instr .ksastep := by decide
theorem test_decode_ksa : decode 0b00100010000000000000000000000000#32 = .instr .ksa := by decide
theorem test_decode_xorb : decode 0b00110000000000000000000001010000#32 = .instr (.xorb 0x50#8) := by decide
theorem test_decode_srd : decode 0b01000000000001110000000000000000#32 = .instr (.srd 0x07#8) := by decide
/-- V-DEC-1, V-DEC-2. -/
theorem test_decode_illegal : decode 0x02000000#32 = .illegal ∧ decode 0xFFFFFFFF#32 = .illegal := by decide
/-- V-DEC-3 to V-DEC-7. -/
theorem test_decode_reserved :
    decode 0x00000001#32 = .reserved .nop ∧ decode 0x10000100#32 = .reserved .keywr ∧
    decode 0x30000100#32 = .reserved .xorb ∧ decode 0x11000200#32 = .reserved .keylen ∧
    decode 0x01000001#32 = .reserved .clr := by decide
/-- P1 and P3 of 95_test_vectors.md. -/
theorem test_encode : encode (.keywr 0x02#8 0x79#8) = 0x10020079#32 ∧ encode (.keylen 256#9) = 0x11000100#32 ∧
    encode (.srd 0xFF#8) = 0x40FF0000#32 ∧ encode (.xorb 0xF3#8) = 0x300000F3#32 := by decide
theorem test_decodeTableWord : decodeTableWord 32 0x12C80000 = some (.keyrd 200#8) ∧
    decodeTableWord 32 0x02000000 = none := by decide

/-! ## The assembler (R79, R80, R81) -/

theorem test_parse_keywr : parseLine "KEYWR 0, 0x4B".toList = some (.keywr 0 0x4B) := by decide +kernel
theorem test_parse_loadkey : parseLine "LOADKEY 0x57,0x69,0x6B,0x69".toList = some (.loadkey [0x57, 0x69, 0x6B, 0x69]) := by
  decide +kernel
theorem test_parse_refused : parseLine "KSA 1".toList = none ∧ parseLine "keylen 3".toList = none := by decide +kernel
theorem test_assemble_loadkey : assemble (.loadkey [0x57, 0x69]) = some [0x10000057#32, 0x10010069#32, 0x11000002#32] := by
  decide
theorem test_assemble_loadkey128 :
    ((assemble (.loadkey128 0x000102030405060708090A0B0C0D0E0F)).map fun ws => (ws.length, ws.drop 15)) =
      some (17, [0x100F000F#32, 0x11000010#32]) := by decide +kernel
theorem test_programEvents : programEvents [.command (.xorb 0x50), .rd .dout] =
    some [.write 0#3 0x30000050#32, .read 2#3] := by decide

/-! ## One command each (95_test_vectors.md) -/

/-- V-CTL-1. -/
theorem test_nop : (nextState (exec .nop streamState)).map (portRead 1#3) = some 0x00000102#32 := by decide
/-- V-CTL-4, V-DEC-10. -/
theorem test_clr : (nextState (exec .clr (stateInError .illegalOp))).map (portRead 1#3) = some 0#32 := by decide
/-- V-KEY-1. -/
theorem test_keywr : (nextState (exec (.keywr 0x00#8 0x4B#8) State.reset)).map (fun t => (readKey t 0x00#8, portRead 1#3 t)) =
    some (0x4B#8, 0#32) := by decide +kernel
/-- V-KEY-8: refused in phase KSA, KEY[0] kept. -/
theorem test_keywr_in_ksa : (nextState (exec (.keywr 0x00#8 0x01#8) { keyKey with phase := .ksa })).map
    (fun t => (readKey t 0x00#8, portRead 1#3 t)) = some (0x4B#8, 0x00000335#32) := by decide +kernel
/-- V-KEY-4. -/
theorem test_keylen : (nextState (exec (.keylen 256#9) State.reset)).map (portRead 1#3) = some 0x00010000#32 := by decide
/-- V-KEY-5. -/
theorem test_keylen_range : (nextState (exec (.keylen 257#9) State.reset)).map (portRead 1#3) = some 0x00000044#32 := by decide
/-- V-KEY-2. -/
theorem test_keyrd : (nextState (exec (.keyrd 0x02#8) keyKey)).map (portRead 2#3) = some 0x79#32 := by decide +kernel
/-- V-KSA-2. -/
theorem test_ksainit : (nextState (exec .ksainit keyKey)).map (fun t => (portRead 1#3 t, portRead 3#3 t, readS t 0x07#8)) =
    some (0x00000301#32, 0#32, 0x07#8) := by decide +kernel
/-- V-KSA-10. -/
theorem test_ksainit_empty : (nextState (exec .ksainit State.reset)).map (portRead 1#3) = some 0x00000054#32 := by decide
/-- V-KSA-3. -/
theorem test_ksastep : (nextState (exec .ksastep (startSchedule keyKey))).map
    (fun t => (portRead 3#3 t, readS t 0x00#8, readS t 0x4B#8)) = some (0x004B0001#32, 0x4B#8, 0x00#8) := by decide +kernel
/-- V-KSA-11: the new KJ equals KI and the swap leaves S alone. -/
theorem test_ksastep_self : (nextState (exec .ksastep (scheduleAt 0#9))).map (fun t => (portRead 3#3 t, readS t 0x00#8)) =
    some (0x00000001#32, 0x00#8) := by decide +kernel
/-- V-KSA-1, then V-PRGA-1 and V-SRC-1's first byte: the whole schedule of the key "Key", and "P" encrypted. -/
theorem test_ksa : (nextState (exec .ksa keyKey)).map
      (fun t => ((portRead 1#3 t, portRead 3#3 t, portRead 4#3 t),
        [0x00#8, 0x01#8, 0x02#8, 0x03#8, 0x04#8, 0x05#8, 0xFE#8, 0xFF#8].map (readS t),
        (nextState (exec (.xorb 0x50#8) t)).map fun u => (u.dout, portRead 4#3 u))) =
    some ((0x00000302#32, 0x00360100#32, 0#32),
      [0x4B#8, 0x33#8, 0x84#8, 0x9D#8, 0xC0#8, 0xC8#8, 0x3D#8, 0x93#8],
      some (0xBB#8, 0x00330001#32)) := by decide +kernel
/-- V-KSA-9. -/
theorem test_ksa_empty : (nextState (exec .ksa State.reset)).map (portRead 1#3) = some 0x00000054#32 := by decide
/-- V-PRGA-10: the first keystream byte over the permutation of V-KSA-13. -/
theorem test_xorb : (nextState (exec (.xorb 0x00#8) streamState)).map (fun t => (t.dout, t.pi, t.pj)) =
    some (0x06#8, 0x01#8, 0x02#8) := by decide +kernel
/-- V-PRGA-6. -/
theorem test_xorb_idle : (nextState (exec (.xorb 0x50#8) State.reset)).map (portRead 1#3) = some 0x00000034#32 := by decide
/-- V-CTL-2. -/
theorem test_srd : (nextState (exec (.srd 0x07#8) (scheduleAt 0#9))).map (portRead 2#3) = some 0x07#32 := by decide +kernel
/-- V-CTL-3. -/
theorem test_srd_idle : (nextState (exec (.srd 0x00#8) State.reset)).map (portRead 1#3) = some 0x00000034#32 := by decide

/-! ## The port and the step -/

/-- V-DEC-1, V-DEC-8, V-DEC-9: an illegal word raises; the error state refuses the rest. -/
theorem test_error_state : (nextState (runWord 0x02000000#32 State.reset)).map (portRead 1#3) = some 0x00000014#32 ∧
    (nextState (runWord 0x11000003#32 (stateInError .illegalOp))).map (portRead 1#3) = some 0x00000014#32 ∧
    (nextState (runWord 0x01000001#32 (stateInError .illegalOp))).map (portRead 1#3) = some 0x00000014#32 := by decide
/-- V-DEC-5: reserved bits are checked before the phase. -/
theorem test_reserved_before_phase : (nextState (runWord 0x30000100#32 State.reset)).map (portRead 1#3) =
    some 0x00000024#32 := by decide
/-- V-CTL-7. -/
theorem test_status_write_ignored : (nextState (step (withEvents streamState [.write 1#3 0xFFFFFFFF#32]))).map
    (portRead 1#3) = some 0x00000102#32 := by decide
/-- The instruction placed for the next step is run by it. -/
theorem test_withFetchWord : (nextState (step (State.reset.withFetchWord 32 0x11000003))).map (·.klen) = some 3#9 := by decide
/-- P1's end state: PIDX, STATUS and KIDX with PI = 9, PJ = 0xDE, KJ = 0x36, KI = 256, KLEN = 3. -/
theorem test_register_layouts :
    portRead 4#3 { stateAt .stream 3#9 256#9 with pi := 9#8, pj := 0xDE#8, kj := 0x36#8 } = 0x00DE0009#32 ∧
    portRead 3#3 { stateAt .stream 3#9 256#9 with pi := 9#8, pj := 0xDE#8, kj := 0x36#8 } = 0x00360100#32 := by decide
theorem test_read_is_logged : (nextState (step (withEvents State.reset [.read 5#3]))).map (·.reads) =
    some [0x52433401#32] := by decide

/-! ## Witnesses: for every statement with hypotheses, a state and operands that meet them, at the edges of their ranges -/

theorem witness_DecodedCommandEncodesToItsWord : decode 0x110001FF#32 = .instr (.keylen 511#9) := by decide
theorem witness_WordSpellsTheRowItMatches :
    0x10FF00FF#32 &&& Op.keywr.mask = Op.keywr.matchWord ∧ decode 0x10FF00FF#32 = .instr (.keywr 0xFF#8 0xFF#8) := by decide
theorem witness_OperandsAreTheWordsFields : decode 0x40FF0000#32 = .instr (.srd 0xFF#8) ∧
    decode 0x300000FF#32 = .instr (.xorb 0xFF#8) ∧ decode 0x12FF0000#32 = .instr (.keyrd 0xFF#8) := by decide
/-- Both ends of each of the five ranges of illegal opcodes. -/
theorem witness_IllegalOpcode : ∀ c ∈ [0x02, 0x0F, 0x13, 0x1F, 0x23, 0x2F, 0x31, 0x3F, 0x41, 0xFF],
    ((BitVec.ofNat 32 (c * 2 ^ 24 + 1)).extractLsb' 24 8).toNat = c ∧ State.reset.err = false := by decide
/-- The lowest and the highest reserved bit of each format. -/
theorem witness_ReservedBit : ∀ p ∈ [(Op.nop, 0), (.nop, 23), (.keyrd, 0), (.keyrd, 15), (.keylen, 9), (.keylen, 23), (.xorb, 8),
      (.xorb, 23), (.keywr, 8), (.keywr, 15)],
    (p.1.matchWord ||| BitVec.ofNat 32 (2 ^ p.2)).extractLsb' 24 8 = p.1.code ∧
    reservedField p.1.format (p.1.matchWord ||| BitVec.ofNat 32 (2 ^ p.2)) ≠ 0 := by decide
theorem witness_AssemblerWords : (255 < 256 ∧ 511 < 512) ∧ (256 ≤ 256 ∧ 512 ≤ 512) := by decide
theorem witness_PseudoInstructions_one_byte : 1 ≤ [255].length ∧ [255].length ≤ 256 ∧ ∀ b ∈ [255], b < 256 := by decide
theorem witness_PseudoInstructions_full : (List.replicate 256 255).length ≤ 256 ∧ ∀ b ∈ List.replicate 256 255, b < 256 := by
  decide +kernel
theorem witness_PseudoInstructions_128 : 2 ^ 128 - 1 < 2 ^ 128 := by decide
theorem witness_StepRunsTheDecodedCommand :
    (withEvents State.reset [.write 0#3 0x11000100#32]).pending = [.write 0#3 0x11000100#32] ∧
    decode 0x11000100#32 = .instr (.keylen 256#9) := by decide
/-- One state and word for each clause: error and CLR, error and another word, illegal, reserved, wrong phase, right phase. -/
theorem witness_CommandWordChecksInOrder :
    (stateInError .phase).err = true ∧ (0x01000001#32 : Word) ≠ 0x01000000#32 ∧ State.reset.err = false ∧
    decode 0x02000000#32 = .illegal ∧ decode 0x01000001#32 = .reserved .clr ∧
    decode 0x30000000#32 = .instr (.xorb 0#8) ∧ allowed .xorb .idle = false ∧ allowed .xorb .stream = true := by decide
theorem witness_ErrorsArePrecise :
    ∃ t, step (withEvents State.reset [.write 0#3 0x22000000#32]) = .next t ∧ t.err = true ∧ t.ecode = .emptyKey :=
  ⟨_, rfl, rfl, rfl⟩
theorem witness_ErrorStateRefuses : (stateInError .emptyKey).err = true ∧ Instr.nop ≠ .clr ∧
    (0x01000001#32 : Word) ≠ 0x01000000#32 := by decide
theorem witness_ErrorStateLeft_clr :
    ∃ t, step (withEvents (stateInError .phase) [.write 0#3 0x01000000#32]) = .next t ∧ t.err = false := ⟨_, rfl, rfl⟩
theorem witness_ErrorStateLeft_reset :
    ∃ t, step (withEvents (stateInError .phase) [.reset]) = .next t ∧ t.err = false := ⟨_, rfl, rfl⟩
theorem witness_FirstErrorCodeIsKept :
    ∃ t, step (withEvents (stateInError .klenRange) [.write 0#3 0x02000000#32]) = .next t ∧ t.err = true ∧
      t.ecode = .klenRange := ⟨_, rfl, rfl, rfl⟩
theorem witness_ClrWithReservedBitsInError : (stateInError .phase).err = true ∧
    (0x01800000#32 : Word).extractLsb' 24 8 = 0x01#8 ∧ ((0x01800000#32 : Word).extractLsb' 0 24).toNat ≠ 0 := by decide
/-- ReservedBitsRaise, for each opcode and field it is stated of. -/
theorem witness_ReservedBitsRaise : ∀ p ∈ [(0x00, 0, 24), (0x01, 0, 24), (0x10, 8, 8), (0x11, 9, 15), (0x12, 0, 16), (0x20, 0, 24),
      (0x21, 0, 24), (0x22, 0, 24), (0x30, 8, 16), (0x40, 0, 16)],
    (BitVec.ofNat 32 (p.1 * 2 ^ 24 + 2 ^ p.2.1)).extractLsb' 24 8 = BitVec.ofNat 8 p.1 ∧
    ((BitVec.ofNat 32 (p.1 * 2 ^ 24 + 2 ^ p.2.1)).extractLsb' p.2.1 p.2.2).toNat ≠ 0 := by decide
theorem witness_Keywr : (stateAt .stream 0#9 256#9).err = false ∧ (stateAt .stream 0#9 256#9).phase ≠ .ksa ∧
    (scheduleAt 0#9).err = false ∧ (scheduleAt 0#9).phase = .ksa := ⟨rfl, by decide, rfl, rfl⟩
theorem witness_Keylen : State.reset.err = false ∧ State.reset.phase ≠ .ksa ∧ (256#9).toNat ≤ 256 ∧ 257 ≤ (257#9).toNat ∧
    257 ≤ (511#9).toNat := by decide
theorem witness_Srd : (scheduleAt 255#9).err = false ∧ (scheduleAt 255#9).phase ≠ .idle ∧ State.reset.phase = .idle :=
  ⟨rfl, by decide, rfl⟩
theorem witness_Ksainit : keyKey.err = false ∧ keyKey.klen ≠ 0#9 ∧ State.reset.err = false ∧ State.reset.klen = 0#9 :=
  ⟨rfl, by decide, rfl, rfl⟩
/-- KSASTEP's own clause at KI = 0 and at KI = 255, its indices as the statement forms them. -/
theorem witness_Ksastep_first : (scheduleAt 0#9).err = false ∧ (scheduleAt 0#9).phase = .ksa ∧
    1 ≤ (scheduleAt 0#9).klen.toNat ∧ (scheduleAt 0#9).ki.toNat ≤ 255 ∧ (0#8).toNat = (scheduleAt 0#9).ki.toNat ∧
    (0#8).toNat = (scheduleAt 0#9).ki.toNat % (scheduleAt 0#9).klen.toNat ∧
    (0#8).toNat = ((scheduleAt 0#9).kj.toNat + (byteAt (scheduleAt 0#9).S 0#8).toNat +
      (byteAt (scheduleAt 0#9).key 0#8).toNat) % 256 := by decide +kernel
theorem witness_Ksastep_last : (scheduleAt 255#9).ki.toNat = 255 ∧ (255#8).toNat = (scheduleAt 255#9).ki.toNat ∧
    (0#8).toNat = (scheduleAt 255#9).ki.toNat % (scheduleAt 255#9).klen.toNat ∧
    (255#8).toNat = ((scheduleAt 255#9).kj.toNat + (byteAt (scheduleAt 255#9).S 255#8).toNat +
      (byteAt (scheduleAt 255#9).key 0#8).toNat) % 256 := by decide +kernel
theorem witness_Ksastep_phase : streamState.err = false ∧ streamState.phase ≠ .ksa := ⟨rfl, by decide⟩
theorem witness_KsastepStops : (stateAt .ksa 0#9 0#9).phase = .ksa ∧ (stateAt .ksa 0#9 0#9).klen = 0#9 ∧
    (stateAt .ksa 1#9 256#9).klen ≠ 0#9 ∧ 255 < (stateAt .ksa 1#9 256#9).ki.toNat := ⟨rfl, rfl, by decide, by decide⟩
theorem witness_Ksa : keyKey.err = false ∧ keyKey.klen ≠ 0#9 ∧ 1 ≤ keyKey.klen.toNat := ⟨rfl, by decide, by decide⟩
theorem witness_ScheduleKeepsThePermutation_step :
    IsPermutation (scheduleAt 255#9).S ∧ ∃ t, exec .ksastep (scheduleAt 255#9) = .next t :=
  ⟨isPermutation_identity, _, rfl⟩
theorem witness_ScheduleKeepsThePermutation_start : keyKey.klen ≠ 0#9 ∧ ∃ t, exec .ksainit keyKey = .next t :=
  ⟨by decide, _, rfl⟩
/-- XORB at PI = 255, where PI wraps: PI = 0, and PJ + S[0] = 0 over the identity. -/
theorem witness_Xorb : ({ stateAt .stream 1#9 256#9 with S := identityBytes, pi := 255#8 } : State).phase = .stream ∧
    (0#8).toNat = ((0#8).toNat + (byteAt identityBytes (255#8 + 1#8)).toNat) % 256 ∧ streamState.err = false ∧
    (scheduleAt 0#9).phase ≠ .stream := by decide +kernel
theorem witness_LoadingAKey : State.reset.phase ≠ .ksa ∧ 1 ≤ [0x4B#8].length ∧ [0x4B#8].length ≤ 256 ∧
    [Instr.keywr 0#8 0x4B#8].Perm (keyWrites 0 [0x4B#8]) := ⟨by decide, by decide, by decide, .refl _⟩
theorem witness_LoadingAKey_prefix : 1 ≤ keyKey.klen.toNat ∧
    (∀ m : Byte, m.toNat < keyKey.klen.toNat → byteAt (setByteAt keyKey.key 3#8 0xAA#8) m = byteAt keyKey.key m) :=
  ⟨by decide, fun m h => by
    have : m ≠ 3#8 := by rintro rfl; revert h; decide
    simp [this]⟩
theorem witness_LoadingAKey_ksa : ∃ t, exec .ksa keyKey = .next t := ⟨_, rfl⟩
/-- The shortest key longer than KEY_MAX, all zero, as its first 256 bytes stand in KEY. -/
theorem witness_LongKey : ({ State.reset with klen := 256#9 } : State).err = false ∧ 256 < (List.replicate 257 0#8).length ∧
    ∀ m : Byte, byteAt ({ State.reset with klen := 256#9 } : State).key m = (List.replicate 257 0#8).getD m.toNat 0#8 := by
  decide +kernel
theorem witness_LongKey_loading : State.reset.err = false ∧ State.reset.phase ≠ .ksa := ⟨rfl, by decide⟩
theorem witness_CipherOperation : (withEvents State.reset (cipherAccesses [0x4B#8] [0x50#8])).err = false ∧
    (withEvents State.reset (cipherAccesses [0x4B#8] [0x50#8])).phase ≠ .ksa ∧
    (withEvents State.reset (cipherAccesses [0x4B#8] [0x50#8])).pending = cipherAccesses [0x4B#8] [0x50#8] :=
  ⟨rfl, by decide, rfl⟩
/-- The longest key, from the stream of an earlier one. -/
theorem witness_CipherOperation_longest :
    (withEvents streamState (cipherAccesses (List.replicate 256 0x4B#8) [0x50#8, 0x6C#8])).err = false ∧
    (withEvents streamState (cipherAccesses (List.replicate 256 0x4B#8) [0x50#8, 0x6C#8])).phase ≠ .ksa ∧
    1 ≤ (List.replicate 256 0x4B#8).length ∧ (List.replicate 256 0x4B#8).length ≤ 256 :=
  ⟨rfl, by decide, by decide +kernel, by decide +kernel⟩
/-- The second run of the involution, over the byte 0xBB the first one reads (V-SRC-1), from the stream it ends in. -/
theorem witness_CipherOperationTwice :
    (withEvents streamState (cipherAccesses [0x4B#8, 0x65#8, 0x79#8] [0xBB#8])).err = false ∧
    (withEvents streamState (cipherAccesses [0x4B#8, 0x65#8, 0x79#8] [0xBB#8])).phase ≠ .ksa ∧
    (withEvents streamState (cipherAccesses [0x4B#8, 0x65#8, 0x79#8] [0xBB#8])).pending =
      cipherAccesses [0x4B#8, 0x65#8, 0x79#8] [0xBB#8] :=
  ⟨rfl, by decide, rfl⟩
theorem witness_KeystreamDoesNotDependOnData : streamState.err = false ∧ streamState.phase = .stream := ⟨rfl, rfl⟩
theorem witness_OtherCommands : ∃ t, exec (.srd 0#8) streamState = .next t ∧ t.err = false := ⟨_, rfl, rfl⟩
theorem witness_OtherCommands_read :
    ∃ t, step (withEvents streamState [.read 1#3]) = .next t ∧ t.err = false := ⟨_, rfl, rfl⟩
theorem witness_PortReads :
    (withEvents State.reset [.read 1#3, .read 7#3, .read 1#3]).pending = [.read 1#3, .read 7#3, .read 1#3] := rfl
theorem witness_WritesOffCmd : (1#3 : PortAddr) ≠ 0#3 ∧ (7#3 : PortAddr) ≠ 0#3 := by decide
theorem witness_LaterAccesses : ∃ t, step (withEvents State.reset [.write 0#3 0x11000003#32]) = .next t := ⟨_, rfl⟩
theorem witness_NoAutonomousStep : State.reset.pending = [] := rfl
theorem witness_ResetInput : (withEvents streamState [.reset, .read 1#3]).pending = [.reset, .read 1#3] := rfl
theorem witness_Invariants_ksa : BlockInv (scheduleAt 255#9) where
  idleIndices := by simp [scheduleAt, stateAt]
  scheduleRange := by simp [scheduleAt, stateAt, State.reset]
  streamComplete := by simp [scheduleAt, stateAt]
  permutation := fun _ => isPermutation_identity
  keyLength := by simp [scheduleAt, stateAt]
  errorCode := by simp [scheduleAt, stateAt, State.reset]
theorem witness_Invariants_step : ∃ t, step (withEvents (scheduleAt 255#9) [.write 0#3 0x21000000#32]) = .next t := ⟨_, rfl⟩
/-- Two states in IDLE that differ in S. -/
theorem witness_HiddenContentOfS : SameToHost State.reset { State.reset with S := identityBytes } :=
  ⟨rfl, fun h => absurd rfl h⟩
theorem witness_PhaseTransitions :
    ∃ t, step (withEvents (scheduleAt 255#9) [.write 0#3 0x21000000#32]) = .next t ∧ t.phase = .stream := ⟨_, rfl, rfl⟩
theorem witness_PhaseTransitions_ksainit :
    ∃ t, exec .ksainit keyKey = .next t ∧ t.err = false ∧ t.phase = .ksa := ⟨_, rfl, rfl, rfl⟩
theorem witness_OnlyTheNamedCommands :
    ∃ t, exec (.keylen 256#9) State.reset = .next t ∧ t.klen ≠ State.reset.klen := ⟨_, rfl, by decide⟩
/-- A change of each register the clauses name. -/
theorem witness_OnlyTheNamedCommands_changes :
    (nextState (exec (.xorb 0#8) streamState)).map (fun t => (readS t 1#8 != readS streamState 1#8, t.pi != streamState.pi,
      t.pj != streamState.pj, t.dout != streamState.dout)) = some (true, true, true, true) ∧
    (nextState (exec (.keywr 0#8 1#8) State.reset)).map (fun t => readKey t 0#8 != readKey State.reset 0#8) = some true ∧
    (nextState (exec .ksastep (startSchedule keyKey))).map (fun t => (t.ki != 0#9, t.kj != 0#8)) = some (true, true) ∧
    (nextState (exec .ksainit keyKey)).map (fun t => t.phase != keyKey.phase) = some true ∧
    (nextState (exec .ksa State.reset)).map (fun t => (t.err, t.ecode)) = some (true, .emptyKey) := by decide +kernel
theorem witness_PhaseTransitions_ksa :
    (nextState (exec .ksa keyKey)).map (fun t => (t.err, t.phase)) = some (false, .stream) ∧ keyKey.err = false := by
  decide +kernel
theorem witness_PhaseTransitions_clr : ∃ t, exec .clr streamState = .next t := ⟨_, rfl⟩
theorem witness_PhaseTransitions_reset :
    ∃ t, step (withEvents streamState [.reset]) = .next t ∧ t.phase ≠ streamState.phase := ⟨_, rfl, by decide⟩

end Sys2Proof.Machine
end

section
/-! PROOFS. The block's arrays against the reference's functions of the index, and the key schedule against `Ksa` (R120,
R124, R125). -/

namespace Sys2Proof.Machine

/-! ## The key schedule computes `Ksa` -/

/-- The array `v` holds the values of `f`, a function of the index as the reference algorithms use them. -/
def Represents (v : Bytes256) (f : Nat → Nat) : Prop := ∀ i : Byte, (byteAt v i).toNat = f i.toNat

theorem represents_identityBytes : Represents identityBytes fun i => i := fun i => by rw [byteAt_identityBytes]

/-- The block's swap is the reference's. -/
theorem Represents.swap {v : Bytes256} {f : Nat → Nat} (h : Represents v f) (a b : Byte) :
    Represents (swapBytes v a b) (refSwap f a.toNat b.toNat) := by
  intro k
  simp only [byteAt_swapBytes, refSwap, ← BitVec.toNat_inj, ← h _]
  split
  · rfl
  · split <;> rfl

/-- S and KJ are the array and the index `j` of the reference schedule. -/
def AtReference (s : State) (p : (Nat → Nat) × Nat) : Prop := Represents s.S p.1 ∧ s.kj.toNat = p.2

/-- Every iteration reads in KEY, at `KI mod KLEN`, the byte that `Ksa(key)` reads. -/
def KeyServes (s : State) (key : List Byte) : Prop :=
  ∀ i < 256, byteAt s.key (BitVec.ofNat 8 (i % s.klen.toNat)) = key.getD (i % key.length) 0#8

theorem kiIndex_toNat {s : State} (h : s.ki.toNat < 256) : (kiIndex s).toNat = s.ki.toNat := by
  simp [kiIndex, Nat.mod_eq_of_lt h]

theorem keyIndex_eq (s : State) : keyIndex s = BitVec.ofNat 8 (s.ki.toNat % s.klen.toNat) :=
  BitVec.eq_of_toNat_eq (by simp [keyIndex])

/-- The new KJ of an iteration is the reference's new `j`. -/
theorem AtReference.nextKj {s : State} {p : (Nat → Nat) × Nat} {key : List Byte} (h : AtReference s p)
    (hk : KeyServes s key) (hi : s.ki.toNat < 256) :
    (nextKj s).toNat = (refKsaRound key p s.ki.toNat).2 := by
  obtain ⟨hS, hj⟩ := h
  have hs : (readS s (kiIndex s)).toNat = p.1 s.ki.toNat := by rw [readS, hS, kiIndex_toNat hi]
  have hb : readKey s (keyIndex s) = key.getD (s.ki.toNat % key.length) 0#8 := by
    rw [readKey, keyIndex_eq, hk _ hi]
  simp only [Machine.nextKj, refKsaRound, BitVec.toNat_add, hs, hb, hj]
  omega

/-- One iteration (R122) is one round of `Ksa` (R120). -/
theorem AtReference.ksaIter {s : State} {p : (Nat → Nat) × Nat} {key : List Byte} (h : AtReference s p)
    (hk : KeyServes s key) (hi : s.ki.toNat < 256) :
    AtReference (ksaIter s) (refKsaRound key p s.ki.toNat) := by
  have hj := h.nextKj hk hi
  refine ⟨?_, by rw [ksaIter_kj, hj]⟩
  have hswap := h.1.swap (kiIndex s) (Machine.nextKj s)
  rw [kiIndex_toNat hi, hj] at hswap
  rwa [ksaIter_S]

@[simp] theorem ksaIters_key (n : Nat) (s : State) : (ksaIters n s).key = s.key :=
  ksaIters_induction (P := fun t => t.key = s.key) (fun t h => (ksaIter_key t).trans h) n rfl

@[simp] theorem ksaIters_klen (n : Nat) (s : State) : (ksaIters n s).klen = s.klen :=
  ksaIters_induction (P := fun t => t.klen = s.klen) (fun t h => (ksaIter_klen t).trans h) n rfl

theorem ksaIters_succ (n : Nat) (s : State) : ksaIters (n + 1) s = ksaIter (ksaIters n s) :=
  ksaIters_add n 1 s

theorem ksaIters_ki (n : Nat) (s : State) : (ksaIters n s).ki = s.ki + BitVec.ofNat 9 n := by
  induction n with
  | zero => simp [ksaIters]
  | succ n ih => rw [ksaIters_succ, ksaIter_ki, ih, BitVec.ofNat_add, BitVec.add_assoc]

/-- After `n` iterations from the start, S and KJ are those of the first `n` rounds of `Ksa`. -/
theorem ksaIters_atReference {s : State} {key : List Byte} (hk : KeyServes s key) {n : Nat} (hn : n ≤ 256) :
    AtReference (ksaIters n (startSchedule s)) ((List.range n).foldl (refKsaRound key) (fun i => i, 0)) := by
  induction n with
  | zero => exact ⟨represents_identityBytes, rfl⟩
  | succ n ih =>
    have hki : (ksaIters n (startSchedule s)).ki.toNat = n := by
      rw [ksaIters_ki, startSchedule_ki, BitVec.zero_add, BitVec.toNat_ofNat]
      omega
    have hk' : KeyServes (ksaIters n (startSchedule s)) key := by simpa [KeyServes] using hk
    have hround := (ih (by omega)).ksaIter hk' (by omega)
    rw [hki] at hround
    rwa [ksaIters_succ, List.range_succ, List.foldl_append]

/-- KSA with a key loaded, as an equation (R124). -/
theorem exec_ksa_of_klen_ne_zero {s : State} (he : s.err = false) (hn : s.klen ≠ 0#9) :
    exec .ksa s = .next (ksaIters 256 (startSchedule s)) := by
  rw [exec_ksa, guarded_of_allowed he rfl, if_neg hn]

/-- KSA ends with `(S, KJ) = Ksa(key)`, for every key whose bytes its iterations read. -/
theorem exec_ksa_atReference {s : State} {key : List Byte} (he : s.err = false) (hn : s.klen ≠ 0#9)
    (hk : KeyServes s key) : ∃ t, exec .ksa s = .next t ∧ t.klen = s.klen ∧ AtReference t (refKsa key) :=
  ⟨_, exec_ksa_of_klen_ne_zero he hn, by simp, ksaIters_atReference hk le_rfl⟩

end Sys2Proof.Machine
end

section
/-! PROOFS. Commands in order, and loading a key (R80, R103). -/

namespace Sys2Proof.Machine

theorem execAll_cons_of_next {i : Instr} {s t : State} (h : exec i s = .next t) (rest : List Instr) :
    execAll (i :: rest) s = execAll rest t := by simp only [execAll, h]

theorem execAll_append_of_next {xs : List Instr} {s t : State} (h : execAll xs s = .next t) (ys : List Instr) :
    execAll (xs ++ ys) s = execAll ys t := by
  induction xs generalizing s with
  | nil => cases h; rfl
  | cons x xs ih =>
    cases hx : exec x s with
    | next u =>
      rw [execAll_cons_of_next hx] at h
      rw [List.cons_append, execAll_cons_of_next hx, ih h]
    | fault r => simp [execAll, hx] at h
    | refused r => simp [execAll, hx] at h

/-- The array with a key's bytes written from index `m` on: what `keyWrites` does to KEY. -/
def storeBytes (m : Nat) : List Byte → Bytes256 → Bytes256
  | [], v => v
  | b :: rest, v => storeBytes (m + 1) rest (setByteAt v (BitVec.ofNat 8 m) b)

/-- Reading after the writes: the key's byte at the indices written, the old byte at the others. -/
theorem byteAt_storeBytes {m : Nat} {bytes : List Byte} (v : Bytes256) (h : m + bytes.length ≤ 256) (k : Byte) :
    byteAt (storeBytes m bytes v) k =
      if k.toNat < m then byteAt v k else bytes.getD (k.toNat - m) (byteAt v k) := by
  induction bytes generalizing m v with
  | nil => simp [storeBytes]
  | cons b rest ih =>
    rw [List.length_cons] at h
    have hm : k = BitVec.ofNat 8 m ↔ k.toNat = m := by
      rw [← BitVec.toNat_inj, BitVec.toNat_ofNat, Nat.mod_eq_of_lt (by omega)]
    rw [storeBytes, ih _ (by omega), byteAt_setByteAt]
    simp only [hm]
    rcases Nat.lt_trichotomy k.toNat m with hlt | heq | hgt
    · simp [hlt, hlt.ne, Nat.lt_succ_of_lt hlt]
    · simp [heq]
    · have hsub : k.toNat - m = k.toNat - (m + 1) + 1 := by omega
      rw [if_neg (by omega), if_neg hgt.ne', if_neg (by omega), hsub, List.getD_cons_succ]

theorem exec_keywr_of_phase_ne {s : State} (he : s.err = false) (hp : s.phase ≠ .ksa) (a d : Byte) :
    exec (.keywr a d) s = .next (writeKey s a d) := by
  rw [exec_keywr, guarded_of_allowed he (by simp [allowed, hp])]

theorem exec_keylen_of_phase_ne {s : State} (he : s.err = false) (hp : s.phase ≠ .ksa) {n : Count}
    (hn : n.toNat ≤ 256) : exec (.keylen n) s = .next (s.setKlen n) := by
  have hr : klenInRange n = true := decide_eq_true hn
  rw [exec_keylen, guarded_of_allowed he (by simp [allowed, hp]), if_pos hr]

/-- The KEYWRs of a key write its bytes to KEY and nothing else. -/
theorem execAll_keyWrites {s : State} (he : s.err = false) (hp : s.phase ≠ .ksa) (m : Nat) (bytes : List Byte) :
    execAll (keyWrites m bytes) s = .next (s.setKey (storeBytes m bytes s.key)) := by
  induction bytes generalizing m s with
  | nil => rfl
  | cons b rest ih =>
    rw [keyWrites, execAll_cons_of_next (exec_keywr_of_phase_ne he hp _ b)]
    exact ih (s := writeKey s (BitVec.ofNat 8 m) b) he hp (m + 1)

/-- LOADKEY (R80) writes the key's bytes to KEY and its length to KLEN, and nothing else. -/
theorem execAll_loadKey {s : State} (he : s.err = false) (hp : s.phase ≠ .ksa) {bytes : List Byte}
    (hn : bytes.length ≤ 256) :
    execAll (loadKey bytes) s =
      .next ((s.setKey (storeBytes 0 bytes s.key)).setKlen (BitVec.ofNat 9 bytes.length)) := by
  have hlen : (BitVec.ofNat 9 bytes.length).toNat ≤ 256 := by
    rw [BitVec.toNat_ofNat]
    exact (Nat.mod_le _ _).trans hn
  rw [loadKey, execAll_append_of_next (execAll_keyWrites he hp 0 bytes)]
  exact execAll_cons_of_next
    (exec_keylen_of_phase_ne (s := s.setKey (storeBytes 0 bytes s.key)) he hp hlen) []

end Sys2Proof.Machine
end

section
/-! PROOFS. The scope's two statements (00_scope.md): keys of more than KEY_MAX bytes (R6), and no autonomous step (R2). -/

namespace Sys2Proof.Machine

/-- With KLEN = 256 the 256 iterations read each KEY byte once, and `Ksa` of a longer key reads its first 256 bytes. -/
theorem keyServes_of_klen_eq_256 {s : State} {key : List Byte} (hlong : 256 < key.length) (hn : s.klen = 256#9)
    (hkey : ∀ m : Byte, byteAt s.key m = key.getD m.toNat 0#8) : KeyServes s key := by
  intro i hi
  have hklen : s.klen.toNat = 256 := by rw [hn]; rfl
  rw [hklen, hkey, BitVec.toNat_ofNat, Nat.mod_eq_of_lt (hi.trans hlong)]
  congr 1
  omega

/-- KSA with KLEN = 256 and a longer key's first 256 bytes in KEY computes `Ksa` of the whole key (R6). -/
theorem exec_ksa_longKey {s : State} {key : List Byte} (he : s.err = false) (hlong : 256 < key.length)
    (hn : s.klen = 256#9) (hkey : ∀ m : Byte, byteAt s.key m = key.getD m.toNat 0#8) :
    ∃ t, exec .ksa s = .next t ∧ t.klen = 256#9 ∧ AtReference t (refKsa key) := by
  rw [← hn]
  exact exec_ksa_atReference he (by rw [hn]; decide) (keyServes_of_klen_eq_256 hlong hn hkey)

/-- Storing a longer key's first 256 bytes leaves no byte of the old array. -/
theorem byteAt_storeBytes_take {key : List Byte} (hlong : 256 < key.length) (v : Bytes256) (m : Byte) :
    byteAt (storeBytes 0 (key.take 256) v) m = key.getD m.toNat 0#8 := by
  have hm : m.toNat < 256 := m.isLt
  have hlen : m.toNat < (key.take 256).length := by rw [List.length_take]; omega
  rw [byteAt_storeBytes v (by simp), if_neg (Nat.not_lt_zero _), Nat.sub_zero, List.getD_eq_getElem _ _ hlen,
    List.getElem_take, List.getD_eq_getElem]

/-- Settles O31: the block's iterations follow the rounds of `Ksa`, and within the 256 of them neither index into the key
wraps, so both read the same 256 bytes. -/
theorem longKeySchedulesAsItsFirst256Bytes : Obligations.LongKeySchedulesAsItsFirst256Bytes := by
  refine ⟨fun s key he hlong hn hkey => ?_, fun s key he hp hlong => ?_⟩
  · obtain ⟨t, hexec, -, hS, hkj⟩ := exec_ksa_longKey he hlong hn hkey
    exact ⟨t, hexec, hS, hkj⟩
  · have hlen : (key.take 256).length = 256 := by rw [List.length_take]; omega
    have hload := execAll_loadKey he hp hlen.le
    obtain ⟨t, hexec, hklen, hS, hkj⟩ :=
      exec_ksa_longKey
        (s := (s.setKey (storeBytes 0 (key.take 256) s.key)).setKlen (BitVec.ofNat 9 (key.take 256).length))
        he hlong (by rw [hlen]; rfl) (byteAt_storeBytes_take hlong s.key)
    exact ⟨t, (execAll_append_of_next hload _).trans (execAll_cons_of_next hexec []), hklen, hS, hkj⟩

/-- Settles O41: with no host event waiting the step waits. -/
theorem noAutonomousStep : Obligations.NoAutonomousStep := fun _ => step_waiting

end Sys2Proof.Machine
end

section
/-! PROOFS. What a host event and a key schedule do, for the statements about every step: the cases of an event, PHASE after an
iteration, and what a schedule leaves alone. -/

namespace Sys2Proof.Machine

/-! ## One host event -/

/-- All the effect of a host event can be: a reset, a read, an ignored write, a rejected word, or a command. -/
theorem serve_cases {e : HostEvent} {s : State} {o : Host.Outcome State Fault Refusal} (h : serve e s = o) :
    (e = .reset ∧ o = .next (hardReset s)) ∨
    (∃ a, e = .read a ∧ o = .next (s.logRead (portRead a s))) ∨
    (∃ a w, e = .write a w ∧ a ≠ 0#3 ∧ o = .next s) ∨
    (∃ w c, e = .write 0#3 w ∧ c ≠ .none ∧ o = .next (rejectWord c s)) ∨
    (∃ w i, e = .write 0#3 w ∧ decode w = .instr i ∧ exec i s = o) := by
  subst h
  cases e with
  | reset => exact .inl ⟨rfl, rfl⟩
  | read a => exact .inr (.inl ⟨a, rfl, rfl⟩)
  | write a w =>
    by_cases ha : a = 0#3
    swap
    · exact .inr (.inr (.inl ⟨a, w, rfl, ha, serve_write_other ha w s⟩))
    subst ha
    rw [serve_write_cmd]
    refine .inr (.inr (.inr ?_))
    cases hd : decode w with
    | illegal => exact .inl ⟨w, _, rfl, by simp, runWord_of_illegal hd s⟩
    | reserved op => exact .inl ⟨w, _, rfl, by simp, runWord_of_reserved hd s⟩
    | instr i => exact .inr ⟨w, i, rfl, hd, (runWord_of_instr hd s).symm⟩

/-- A rejected word leaves the state, or raises its error. -/
theorem rejectWord_cases (c : ErrorCode) (s : State) : rejectWord c s = s ∨ rejectWord c s = raiseError c s := by
  rw [rejectWord_eq]
  exact ite_eq_or_eq ..

/-- A command that begins and ends without an error has its effect, in a phase that allows it. -/
theorem effect_of_exec {i : Instr} {s t : State} (h : exec i s = .next t) (hs : s.err = false) (ht : t.err = false) :
    allowed i.op s.phase = true ∧ Effect i s t := by
  obtain ⟨rfl, hclr⟩ | ⟨herr, -⟩ | ⟨-, c, -, rfl⟩ | ⟨-, heffect⟩ := exec_cases h
  · exact ⟨rfl, hclr⟩
  · simp [hs] at herr
  · simp at ht
  · exact heffect

/-! ## The key schedule -/

theorem ksaIter_phase (s : State) : (ksaIter s).phase = if s.ki + 1#9 = 256#9 then .stream else s.phase := by
  split
  next h => rw [ksaIter_of_last s h]
  next h => rw [ksaIter_of_ne s h]

/-- A schedule is in KSA until its 256th iteration and then in STREAM (R122). -/
theorem ksaIters_startSchedule_phase (s : State) {n : Nat} (hn : n ≤ 256) :
    (ksaIters n (startSchedule s)).phase = if n = 256 then .stream else .ksa := by
  induction n with
  | zero => rfl
  | succ n ih =>
    have hlast : BitVec.ofNat 9 n + 1#9 = 256#9 ↔ n + 1 = 256 := by
      rw [← BitVec.toNat_inj, BitVec.toNat_add, BitVec.toNat_ofNat]
      simp
      omega
    rw [ksaIters_succ, ksaIter_phase, ksaIters_ki, startSchedule_ki, BitVec.zero_add, ih (by omega),
      if_neg (show n ≠ 256 by omega)]
    simp only [hlast]

/-- A part of the state that each iteration leaves alone, any number of iterations leaves alone. -/
theorem ksaIters_leaves {α : Type} (f : State → α) (hf : ∀ t, f (ksaIter t) = f t) (n : Nat) (s : State) :
    f (ksaIters n s) = f s :=
  ksaIters_induction (P := fun t => f t = f s) (fun t h => (hf t).trans h) n rfl

@[simp] theorem ksaIters_dout (n : Nat) (s : State) : (ksaIters n s).dout = s.dout :=
  ksaIters_leaves State.dout ksaIter_dout n s
@[simp] theorem ksaIters_err (n : Nat) (s : State) : (ksaIters n s).err = s.err :=
  ksaIters_leaves State.err ksaIter_err n s
@[simp] theorem ksaIters_ecode (n : Nat) (s : State) : (ksaIters n s).ecode = s.ecode :=
  ksaIters_leaves State.ecode ksaIter_ecode n s
@[simp] theorem ksaIters_pending (n : Nat) (s : State) : (ksaIters n s).pending = s.pending :=
  ksaIters_leaves State.pending ksaIter_pending n s
@[simp] theorem ksaIters_reads (n : Nat) (s : State) : (ksaIters n s).reads = s.reads :=
  ksaIters_leaves State.reads ksaIter_reads n s
@[simp] theorem ksaIters_freeUse (n : Nat) (s : State) : (ksaIters n s).freeUse = s.freeUse :=
  ksaIters_leaves State.freeUse ksaIter_freeUse n s

end Sys2Proof.Machine
end

section
/-! PROOFS. The invariants of R30: they hold at reset, every step keeps them, and under them every step goes on. -/

namespace Sys2Proof.Machine

/-! ## Each operation keeps the invariants -/

/-- The invariants hold with every register at its reset value, whatever S holds (R211). -/
theorem blockInv_resetValues (v : Bytes256) (es : List HostEvent) (ws : List Word) (n : Nat) :
    BlockInv { State.reset with S := v, pending := es, reads := ws, freeUse := n } where
  idleIndices := fun _ => ⟨rfl, rfl, rfl, rfl⟩
  scheduleRange := nofun
  streamComplete := nofun
  permutation := fun h => absurd rfl h
  keyLength := Nat.zero_le _
  errorCode := iff_of_true rfl rfl

theorem blockInv_clear (s : State) : BlockInv (clear s) := by
  rw [clear_eq]
  exact blockInv_resetValues ..

theorem blockInv_hardReset (s : State) : BlockInv (hardReset s) := by
  rw [hardReset_eq]
  exact blockInv_resetValues ..

/-- No invariant speaks of KEY, DOUT or the model's own fields. -/
theorem BlockInv.update {s : State} (h : BlockInv s) (k : Bytes256) (b : Byte) (es : List HostEvent) (ws : List Word)
    (n : Nat) : BlockInv { s with key := k, dout := b, pending := es, reads := ws, freeUse := n } where
  idleIndices := h.idleIndices
  scheduleRange := h.scheduleRange
  streamComplete := h.streamComplete
  permutation := h.permutation
  keyLength := h.keyLength
  errorCode := h.errorCode

theorem BlockInv.raiseError {s : State} (h : BlockInv s) {c : ErrorCode} (hc : c ≠ .none) :
    BlockInv (raiseError c s) where
  idleIndices := h.idleIndices
  scheduleRange := h.scheduleRange
  streamComplete := h.streamComplete
  permutation := h.permutation
  keyLength := h.keyLength
  errorCode := by simp [hc]

theorem BlockInv.setKlen {s : State} (h : BlockInv s) (hp : s.phase ≠ .ksa) {n : Count} (hn : n.toNat ≤ 256) :
    BlockInv (s.setKlen n) where
  idleIndices := h.idleIndices
  scheduleRange := fun hksa => absurd hksa hp
  streamComplete := h.streamComplete
  permutation := h.permutation
  keyLength := hn
  errorCode := h.errorCode

theorem BlockInv.startSchedule {s : State} (h : BlockInv s) (hn : s.klen ≠ 0#9) : BlockInv (startSchedule s) where
  idleIndices := by simp
  scheduleRange := fun _ => ⟨by simp, Nat.pos_of_ne_zero fun h0 => hn (BitVec.eq_of_toNat_eq h0), rfl, rfl⟩
  streamComplete := by simp
  permutation := fun _ => isPermutation_identity
  keyLength := h.keyLength
  errorCode := h.errorCode

/-- An iteration in phase KSA keeps the invariants: S stays a permutation under the swap, and KI stays below 256 or ends at it
in STREAM. -/
theorem BlockInv.ksaIter {s : State} (h : BlockInv s) (hp : s.phase = .ksa) : BlockInv (ksaIter s) := by
  obtain ⟨hki, hklen, hpi, hpj⟩ := h.scheduleRange hp
  have hperm : IsPermutation s.S := h.permutation (by simp [hp])
  by_cases hlast : s.ki + 1#9 = 256#9
  · rw [ksaIter_of_last s hlast]
    exact
      { idleIndices := nofun
        scheduleRange := nofun
        streamComplete := fun _ => rfl
        permutation := fun _ => hperm.swap _ _
        keyLength := h.keyLength
        errorCode := h.errorCode }
  · have hnext : (s.ki + 1#9).toNat ≤ 255 := by bv_omega
    rw [ksaIter_of_ne s hlast]
    exact
      { idleIndices := by simp [hp]
        scheduleRange := fun _ => ⟨hnext, hklen, hpi, hpj⟩
        streamComplete := by simp [hp]
        permutation := fun _ => hperm.swap _ _
        keyLength := h.keyLength
        errorCode := h.errorCode }

/-- The invariants hold all through a schedule, from its start to its 256th iteration. -/
theorem BlockInv.ksaIters_startSchedule {s : State} (h : BlockInv s) (hn : s.klen ≠ 0#9) {n : Nat} (hle : n ≤ 256) :
    BlockInv (ksaIters n (Machine.startSchedule s)) := by
  induction n with
  | zero => exact h.startSchedule hn
  | succ n ih =>
    rw [ksaIters_succ]
    refine (ih (by omega)).ksaIter ?_
    rw [ksaIters_startSchedule_phase s (by omega), if_neg (by omega)]

theorem BlockInv.prgaAdvance {s : State} (h : BlockInv s) (hp : s.phase = .stream) : BlockInv (prgaAdvance s) := by
  have hperm : IsPermutation s.S := h.permutation (by simp [hp])
  rw [prgaAdvance_eq]
  exact
    { idleIndices := by simp [hp]
      scheduleRange := by simp [hp]
      streamComplete := h.streamComplete
      permutation := fun _ => hperm.swap _ _
      keyLength := h.keyLength
      errorCode := h.errorCode }

/-! ## Every command and every step keeps them -/

theorem BlockInv.effect {i : Instr} {s t : State} (h : BlockInv s) (ha : allowed i.op s.phase = true)
    (heffect : Effect i s t) : BlockInv t := by
  cases i with
  | nop => exact heffect ▸ h
  | clr => exact heffect ▸ blockInv_clear s
  | keywr a d => exact heffect ▸ h.update ..
  | keylen n =>
    obtain ⟨hn, rfl⟩ := heffect
    exact h.setKlen (by simpa [Instr.op, allowed] using ha) (of_decide_eq_true hn)
  | keyrd a => exact heffect ▸ h.update ..
  | ksainit =>
    obtain ⟨hn, rfl⟩ := heffect
    exact h.startSchedule hn
  | ksastep =>
    obtain ⟨-, -, rfl⟩ := heffect
    exact h.ksaIter (by simpa [Instr.op, allowed] using ha)
  | ksa =>
    obtain ⟨hn, ht⟩ := heffect
    exact ht ▸ h.ksaIters_startSchedule hn le_rfl
  | xorb d =>
    have hstream : s.phase = .stream := by simpa [Instr.op, allowed] using ha
    exact heffect ▸ (h.prgaAdvance hstream).update ..
  | srd a => exact heffect ▸ h.update ..

theorem BlockInv.exec {i : Instr} {s t : State} (h : BlockInv s) (hexec : exec i s = .next t) : BlockInv t := by
  obtain ⟨-, rfl⟩ | ⟨-, rfl⟩ | ⟨-, c, hc, rfl⟩ | ⟨-, ha, heffect⟩ := exec_cases hexec
  · exact blockInv_clear s
  · exact h
  · exact h.raiseError hc
  · exact h.effect ha heffect

theorem BlockInv.rejectWord {s : State} (h : BlockInv s) {c : ErrorCode} (hc : c ≠ .none) :
    BlockInv (rejectWord c s) := by
  obtain he | he := rejectWord_cases c s <;> rw [he]
  · exact h
  · exact h.raiseError hc

theorem BlockInv.serve {e : HostEvent} {s t : State} (h : BlockInv s) (hserve : serve e s = .next t) : BlockInv t := by
  obtain ⟨-, ho⟩ | ⟨a, -, ho⟩ | ⟨a, w, -, -, ho⟩ | ⟨w, c, -, hc, ho⟩ | ⟨w, i, -, -, hexec⟩ := serve_cases hserve
  · cases ho; exact blockInv_hardReset s
  · cases ho; exact h.update ..
  · cases ho; exact h
  · cases ho; exact h.rejectWord hc
  · exact h.exec hexec

/-- Settles O45: whatever a step serves, it either only waits or ends in one of the operations above. -/
theorem everyStepKeepsTheInvariants : Obligations.EveryStepKeepsTheInvariants := by
  intro s t h hstep
  obtain ⟨-, ht⟩ | ⟨e, rest, -, hserve⟩ := step_cases hstep
  · cases ht; exact h
  · exact (h.update s.key s.dout rest s.reads s.freeUse).serve hserve

/-- Settles O44: the reset state is one with every register at its reset value. -/
theorem invariantsHoldAtReset : Obligations.InvariantsHoldAtReset := blockInv_resetValues ..

/-! ## Under them every step goes on -/

/-- A guarded command goes on if its own rule does, in the phases that allow it. -/
theorem guarded_goesOn {op : Op} {rule : State → Host.Outcome State Fault Refusal} {s : State}
    (h : allowed op s.phase = true → ∃ t, rule s = .next t) : ∃ t, guarded op rule s = .next t := by
  obtain ⟨-, hg⟩ | ⟨-, -, hg⟩ | ⟨-, ha, hg⟩ := guarded_cases (rfl : guarded op rule s = _)
  · exact ⟨_, hg⟩
  · exact ⟨_, hg⟩
  · exact hg ▸ h ha

/-- A rule that raises an error or goes on, by a test, goes on. -/
theorem ite_next_goesOn {p : Prop} [Decidable p] (t u : State) :
    ∃ v, (if p then .next t else .next u : Host.Outcome State Fault Refusal) = .next v := by
  split <;> exact ⟨_, rfl⟩

/-- Only KSASTEP has rules that stop, and the range of KI and KLEN in phase KSA (R30 (c)) excludes both. -/
theorem BlockInv.exec_goesOn {s : State} (h : BlockInv s) (i : Instr) : ∃ t, Machine.exec i s = .next t := by
  cases i with
  | nop => rw [exec_nop]; exact guarded_goesOn fun _ => ⟨_, rfl⟩
  | clr => exact ⟨_, rfl⟩
  | keywr a d => rw [exec_keywr]; exact guarded_goesOn fun _ => ⟨_, rfl⟩
  | keylen n => rw [exec_keylen]; exact guarded_goesOn fun _ => ite_next_goesOn ..
  | keyrd a => rw [exec_keyrd]; exact guarded_goesOn fun _ => ⟨_, rfl⟩
  | ksainit => rw [exec_ksainit]; exact guarded_goesOn fun _ => ite_next_goesOn ..
  | ksastep =>
    rw [exec_ksastep]
    refine guarded_goesOn fun ha => ?_
    obtain ⟨hki, hklen, -, -⟩ := h.scheduleRange (by simpa [allowed] using ha)
    have hne : s.klen ≠ 0#9 := fun h0 => by simp [h0] at hklen
    exact ⟨Machine.ksaIter s, by rw [if_neg hne, if_neg (Nat.not_lt.mpr hki)]⟩
  | ksa => rw [exec_ksa]; exact guarded_goesOn fun _ => ite_next_goesOn ..
  | xorb d => rw [exec_xorb]; exact guarded_goesOn fun _ => ⟨_, rfl⟩
  | srd a => rw [exec_srd]; exact guarded_goesOn fun _ => ⟨_, rfl⟩

theorem BlockInv.serve_goesOn {s : State} (h : BlockInv s) (e : HostEvent) : ∃ t, Machine.serve e s = .next t := by
  obtain ⟨-, ho⟩ | ⟨a, -, ho⟩ | ⟨a, w, -, -, ho⟩ | ⟨w, c, -, -, ho⟩ | ⟨w, i, -, -, ho⟩ :=
    serve_cases (rfl : Machine.serve e s = _)
  · exact ⟨_, ho⟩
  · exact ⟨_, ho⟩
  · exact ⟨_, ho⟩
  · exact ⟨_, ho⟩
  · exact ho ▸ h.exec_goesOn i

/-- Settles O46: the two faults are KSASTEP's, and the invariants exclude the states they are for. -/
theorem invariantStatesGoOn : Obligations.InvariantStatesGoOn := by
  intro s h
  obtain ⟨-, ho⟩ | ⟨e, rest, -, ho⟩ := step_cases (rfl : step s = _)
  · exact ⟨_, ho⟩
  · exact ho ▸ (h.update s.key s.dout rest s.reads s.freeUse).serve_goesOn e

end Sys2Proof.Machine
end

section
/-! PROOFS. The content of S in IDLE cannot be observed (R21): the host sees the same through every step. -/

namespace Sys2Proof.Machine

/-! ## States the same to the host -/

theorem SameToHost.refl (s : State) : SameToHost s s := ⟨rfl, fun _ => rfl⟩

theorem SameOutcome.refl (o : Host.Outcome State Fault Refusal) : SameOutcome o o := by
  cases o with
  | next s => exact SameToHost.refl s
  | fault r => rfl
  | refused r => rfl

theorem SameOutcome.of_eq {o p : Host.Outcome State Fault Refusal} (h : o = p) : SameOutcome o p := h ▸ .refl o

/-- In IDLE any content of S is the same to the host. -/
theorem sameToHost_setS {s : State} (hp : s.phase = .idle) (v : Bytes256) : SameToHost s (s.setS v) :=
  ⟨rfl, fun h => absurd hp h⟩

/-- All that two states the same to the host can be: equal, or in IDLE with another S. -/
theorem SameToHost.cases {s t : State} (h : SameToHost s t) : t = s ∨ (s.phase = .idle ∧ t = s.setS t.S) := by
  obtain ⟨heq, hS⟩ := h
  by_cases hp : s.phase = .idle
  · exact .inr ⟨hp, heq⟩
  · exact .inl (by rw [heq, hS hp])

/-- All that two outcomes the same to the host can be: equal, or two next states the same to the host. -/
theorem SameOutcome.cases {o p : Host.Outcome State Fault Refusal} (h : SameOutcome o p) :
    o = p ∨ ∃ s t, o = .next s ∧ p = .next t ∧ SameToHost s t := by
  match o, p, h with
  | .next s, .next t, h => exact .inr ⟨s, t, rfl, rfl, h⟩
  | .fault _, .fault _, h => exact .inl (congrArg _ h)
  | .refused _, .refused _, h => exact .inl (congrArg _ h)

/-! ## A command, an event and a step from IDLE do not show S -/

/-- In IDLE a guarded command shows S only if its own rule does, where IDLE allows it. -/
theorem guarded_sameOutcome {op : Op} {rule : State → Host.Outcome State Fault Refusal} {s : State}
    (hp : s.phase = .idle) (v : Bytes256)
    (h : allowed op .idle = true → SameOutcome (rule s) (rule (s.setS v))) :
    SameOutcome (guarded op rule s) (guarded op rule (s.setS v)) := by
  cases he : s.err
  swap
  · rw [guarded_of_err he, guarded_of_err (s := s.setS v) he]
    exact sameToHost_setS hp v
  cases ha : allowed op s.phase
  · rw [guarded_of_not_allowed he ha, guarded_of_not_allowed (s := s.setS v) he ha]
    exact sameToHost_setS (s := raiseError .phase s) hp v
  · rw [guarded_of_allowed he ha, guarded_of_allowed (s := s.setS v) he ha]
    exact h (hp ▸ ha)

/-- A key schedule starts alike whatever S held (R121). -/
theorem startSchedule_setS (s : State) (v : Bytes256) : startSchedule (s.setS v) = startSchedule s := rfl

/-- KSAINIT and KSA, whose rules differ in what they run from the start of the schedule, do not show S. -/
theorem schedule_sameOutcome {s : State} (hp : s.phase = .idle) (v : Bytes256) (f : State → State) :
    SameOutcome
      (if s.klen = 0#9 then .next (raiseError .emptyKey s) else .next (f (startSchedule s)))
      (if (s.setS v).klen = 0#9 then .next (raiseError .emptyKey (s.setS v))
        else .next (f (startSchedule (s.setS v)))) := by
  rw [State.setS_klen, startSchedule_setS]
  split
  · exact sameToHost_setS (s := raiseError .emptyKey s) hp v
  · exact .refl _

/-- The commands that read S are not allowed in IDLE, and those that leave IDLE write all of S first. -/
theorem exec_sameOutcome {s : State} (hp : s.phase = .idle) (v : Bytes256) (i : Instr) :
    SameOutcome (exec i s) (exec i (s.setS v)) := by
  cases i with
  | nop =>
    rw [exec_nop, exec_nop]
    exact guarded_sameOutcome hp v fun _ => sameToHost_setS hp v
  | clr => exact sameToHost_setS (s := clear s) rfl v
  | keywr a d =>
    rw [exec_keywr, exec_keywr]
    exact guarded_sameOutcome hp v fun _ => sameToHost_setS (s := writeKey s a d) hp v
  | keylen n =>
    rw [exec_keylen, exec_keylen]
    refine guarded_sameOutcome hp v fun _ => ?_
    split
    · exact sameToHost_setS (s := s.setKlen n) hp v
    · exact sameToHost_setS (s := raiseError .klenRange s) hp v
  | keyrd a =>
    rw [exec_keyrd, exec_keyrd]
    exact guarded_sameOutcome hp v fun _ => sameToHost_setS (s := s.setDout (readKey s a)) hp v
  | ksainit =>
    rw [exec_ksainit, exec_ksainit]
    exact guarded_sameOutcome hp v fun _ => schedule_sameOutcome hp v id
  | ksastep =>
    rw [exec_ksastep, exec_ksastep]
    exact guarded_sameOutcome hp v nofun
  | ksa =>
    rw [exec_ksa, exec_ksa]
    exact guarded_sameOutcome hp v fun _ => schedule_sameOutcome hp v (ksaIters 256)
  | xorb d =>
    rw [exec_xorb, exec_xorb]
    exact guarded_sameOutcome hp v nofun
  | srd a =>
    rw [exec_srd, exec_srd]
    exact guarded_sameOutcome hp v nofun

/-- A rejected word does not read S. -/
theorem rejectWord_setS (c : ErrorCode) (s : State) (v : Bytes256) :
    rejectWord c (s.setS v) = (rejectWord c s).setS v := by
  rw [rejectWord_eq, rejectWord_eq, apply_ite (State.setS · v)]
  rfl

theorem rejectWord_phase (c : ErrorCode) (s : State) : (rejectWord c s).phase = s.phase := by
  obtain he | he := rejectWord_cases c s <;> rw [he]
  rfl

theorem runWord_sameOutcome {s : State} (hp : s.phase = .idle) (v : Bytes256) (w : Word) :
    SameOutcome (runWord w s) (runWord w (s.setS v)) := by
  cases hd : decode w with
  | illegal =>
    rw [runWord_of_illegal hd, runWord_of_illegal hd, rejectWord_setS]
    exact sameToHost_setS ((rejectWord_phase ..).trans hp) v
  | reserved op =>
    rw [runWord_of_reserved hd, runWord_of_reserved hd, rejectWord_setS]
    exact sameToHost_setS ((rejectWord_phase ..).trans hp) v
  | instr i =>
    rw [runWord_of_instr hd, runWord_of_instr hd]
    exact exec_sameOutcome hp v i

/-- No port register shows S (R51), so a read of the same register answers the same. -/
theorem portRead_setS (a : PortAddr) (s : State) (v : Bytes256) : portRead a (s.setS v) = portRead a s := rfl

theorem serve_sameOutcome {s : State} (hp : s.phase = .idle) (v : Bytes256) (e : HostEvent) :
    SameOutcome (serve e s) (serve e (s.setS v)) := by
  cases e with
  | reset => exact .refl _
  | read a =>
    rw [serve_read, serve_read, portRead_setS]
    exact sameToHost_setS (s := s.logRead (portRead a s)) hp v
  | write a w =>
    by_cases ha : a = 0#3
    · subst ha
      rw [serve_write_cmd, serve_write_cmd]
      exact runWord_sameOutcome hp v w
    · rw [serve_write_other ha, serve_write_other ha]
      exact sameToHost_setS hp v

theorem SameToHost.step {s t : State} (h : SameToHost s t) : SameOutcome (step s) (step t) := by
  obtain rfl | ⟨hp, ht⟩ := h.cases
  · exact .refl _
  rw [ht]
  cases hpend : s.pending with
  | nil =>
    rw [step_waiting hpend, step_waiting (s := s.setS t.S) hpend]
    exact sameToHost_setS hp t.S
  | cons e rest =>
    rw [step_event hpend, step_event (s := s.setS t.S) hpend]
    exact serve_sameOutcome (s := s.setPending rest) hp t.S e

/-- Runs whose first steps are alike are alike. -/
theorem run_succ_congr {s t : State} (h : step s = step t) (n : Nat) :
    Sys2Proof.core.run (n + 1) s = Sys2Proof.core.run (n + 1) t := by
  have hcore : Sys2Proof.core.step s = Sys2Proof.core.step t := h
  simp only [Host.Core.run, hcore]

/-- Settles O47, by induction on the number of steps. -/
theorem hiddenContentOfSIsUnobservable : Obligations.HiddenContentOfSIsUnobservable := by
  intro n
  induction n with
  | zero => exact fun s t h => h
  | succ n ih =>
    intro s t h
    obtain heq | ⟨u, v, hu, hv, huv⟩ := h.step.cases
    · exact .of_eq (run_succ_congr heq n)
    · rw [run_succ_of_next hu, run_succ_of_next hv]
      exact ih u v huv

end Sys2Proof.Machine
end

section
/-! PROOFS. What changes PHASE (R26), and which commands write each register (R32). -/

namespace Sys2Proof.Machine

/-! ## PHASE -/

/-- The changes of PHASE that R26 names: command `i` takes `s` to PHASE's value in `t`. -/
def PhaseChange (i : Instr) (s t : State) : Prop :=
  (i = .clr ∧ t.phase = .idle) ∨ (i = .ksainit ∧ t.phase = .ksa) ∨ (i = .ksa ∧ t.phase = .stream) ∨
    (i = .ksastep ∧ s.phase = .ksa ∧ t.phase = .stream ∧ t.ki = 256#9)

/-- A whole schedule ends in STREAM (R124). -/
theorem ksaIters_256_phase (s : State) : (ksaIters 256 (startSchedule s)).phase = .stream :=
  ksaIters_startSchedule_phase s le_rfl

theorem Effect.phase {i : Instr} {s t : State} (ha : allowed i.op s.phase = true) (h : Effect i s t) :
    t.phase = s.phase ∨ PhaseChange i s t := by
  cases i with
  | nop | keywr | keyrd | xorb | srd =>
    obtain rfl := h
    exact .inl rfl
  | keylen n =>
    obtain ⟨-, rfl⟩ := h
    exact .inl rfl
  | clr =>
    obtain rfl := h
    exact .inr (.inl ⟨rfl, rfl⟩)
  | ksainit =>
    obtain ⟨-, rfl⟩ := h
    exact .inr (.inr (.inl ⟨rfl, rfl⟩))
  | ksastep =>
    obtain ⟨-, -, rfl⟩ := h
    have hksa : s.phase = .ksa := by simpa [Instr.op, allowed] using ha
    rw [PhaseChange, ksaIter_phase, ksaIter_ki]
    split
    next hlast => exact .inr (.inr (.inr (.inr ⟨rfl, hksa, rfl, hlast⟩)))
    next => exact .inl rfl
  | ksa =>
    obtain ⟨-, ht⟩ := h
    exact .inr (.inr (.inr (.inl ⟨rfl, ht ▸ ksaIters_256_phase s⟩)))

/-- A command leaves PHASE or makes one of R26's changes. -/
theorem exec_phase {i : Instr} {s t : State} (h : exec i s = .next t) : t.phase = s.phase ∨ PhaseChange i s t := by
  obtain ⟨rfl, rfl⟩ | ⟨-, rfl⟩ | ⟨-, c, -, rfl⟩ | ⟨-, ha, heffect⟩ := exec_cases h
  · exact .inr (.inl ⟨rfl, rfl⟩)
  · exact .inl rfl
  · exact .inl rfl
  · exact heffect.phase ha

/-- A host event leaves PHASE, resets it, or is a command that makes one of R26's changes. -/
theorem serve_phase {e : HostEvent} {s t : State} (h : serve e s = .next t) :
    t.phase = s.phase ∨ (e = .reset ∧ t.phase = .idle) ∨
    ∃ w i, e = .write 0#3 w ∧ decode w = .instr i ∧ PhaseChange i s t := by
  obtain ⟨he, ho⟩ | ⟨a, -, ho⟩ | ⟨a, w, -, -, ho⟩ | ⟨w, c, -, -, ho⟩ | ⟨w, i, he, hd, hexec⟩ := serve_cases h
  · cases ho; exact .inr (.inl ⟨he, rfl⟩)
  · cases ho; exact .inl rfl
  · cases ho; exact .inl rfl
  · cases ho; exact .inl (rejectWord_phase c s)
  · exact (exec_phase hexec).imp id fun hchange => .inr ⟨w, i, he, hd, hchange⟩

/-- KSASTEP without an error is in KSA before, and after it in STREAM exactly if it made KI 256 (R122, R123). -/
theorem exec_ksastep_phase {s t : State} (h : exec .ksastep s = .next t) (hs : s.err = false) (ht : t.err = false) :
    s.phase = .ksa ∧ (t.ki = 256#9 → t.phase = .stream) ∧ (t.ki ≠ 256#9 → t.phase = .ksa) := by
  obtain ⟨ha, -, -, rfl⟩ := effect_of_exec h hs ht
  have hksa : s.phase = .ksa := by simpa [Instr.op, allowed] using ha
  rw [ksaIter_ki, ksaIter_phase, hksa]
  exact ⟨rfl, fun hlast => if_pos hlast, fun hlast => if_neg hlast⟩

/-- Settles O48: each transition is its command's effect, and no other event or command changes PHASE. -/
theorem phaseTransitions : Obligations.PhaseTransitions := by
  refine ⟨⟨rfl, rfl, rfl, fun p => by cases p <;> decide⟩, rfl, ?_, ?_, ?_, fun _ _ => exec_ksastep_phase, ?_⟩
  · rintro s _ ⟨⟩
    rfl
  · intro s t h hs ht
    obtain ⟨-, -, rfl⟩ := effect_of_exec h hs ht
    rfl
  · intro s t h hs ht
    obtain ⟨-, -, heq⟩ := effect_of_exec h hs ht
    exact heq ▸ ksaIters_256_phase s
  · intro s t hstep hne
    obtain ⟨-, ho⟩ | ⟨e, rest, hpend, hserve⟩ := step_cases hstep
    · cases ho; exact absurd rfl hne
    obtain hsame | ⟨rfl, hidle⟩ | ⟨w, i, rfl, hd, hchange⟩ := serve_phase hserve
    · exact absurd hsame hne
    · exact .inl ⟨rest, hpend, hidle⟩
    · exact .inr ⟨w, i, rest, hpend, hd, hchange⟩

/-! ## The registers each command writes -/

/-- Settles O49: a check that stops a command writes ERR and ECODE at most, and its effect writes the registers named. -/
theorem onlyTheNamedCommandsWriteEachRegister : Obligations.OnlyTheNamedCommandsWriteEachRegister := by
  intro i s t h
  obtain ⟨rfl, rfl⟩ | ⟨-, rfl⟩ | ⟨-, c, -, rfl⟩ | ⟨-, -, heffect⟩ := exec_cases h
  · simp [Instr.op]
  · simp
  · simp
  cases i with
  | nop => obtain rfl := heffect; simp
  | clr => obtain rfl := heffect; simp [Instr.op]
  | keywr a d => obtain rfl := heffect; simp [Instr.op, writeKey]
  | keylen n => obtain ⟨-, rfl⟩ := heffect; simp [Instr.op]
  | keyrd a => obtain rfl := heffect; simp [Instr.op]
  | ksainit => obtain ⟨-, rfl⟩ := heffect; simp [Instr.op]
  | ksastep => obtain ⟨-, -, rfl⟩ := heffect; simp [Instr.op]
  | ksa => obtain ⟨-, ht⟩ := heffect; simp [Instr.op, ht]
  | xorb d => obtain rfl := heffect; simp [Instr.op, prgaAdvance_eq]
  | srd a => obtain rfl := heffect; simp [Instr.op]

end Sys2Proof.Machine
end

section
/-! PROOFS. The host port (20_memory.md): what each register reads, and a step that serves a read, a write to CMD or a write to
another address. -/

namespace Sys2Proof.Machine

/-! ## Register reads (R51 to R58) -/

theorem portRead_cmd (s : State) : portRead 0#3 s = 0#32 := rfl
theorem portRead_status (s : State) : portRead 1#3 s = statusWord s := rfl
theorem portRead_dout (s : State) : portRead 2#3 s = s.dout.setWidth 32 := rfl
theorem portRead_kidx (s : State) : portRead 3#3 s = kidxWord s := rfl
theorem portRead_pidx (s : State) : portRead 4#3 s = pidxWord s := rfl
theorem portRead_id (s : State) : portRead 5#3 s = 0x52433401#32 := rfl

/-- The reserved addresses 6 and 7 read 0 (R58). -/
theorem portRead_reserved (s : State) : portRead 6#3 s = 0#32 ∧ portRead 7#3 s = 0#32 := ⟨rfl, rfl⟩

theorem errBit_toNat (s : State) : (errBit s).toNat = if s.err then 1 else 0 := by
  rw [errBit, apply_ite BitVec.toNat]
  rfl

theorem portRead_status_toNat (s : State) : (portRead 1#3 s).toNat =
    s.klen.toNat * 2 ^ 8 + s.ecode.code.toNat * 2 ^ 4 + (if s.err then 1 else 0) * 2 ^ 2 + s.phase.code.toNat := by
  rw [portRead_status, statusWord, BitVec.toNat_setWidth_of_le (by decide)]
  simp only [toNat_append_add, errBit_toNat, BitVec.toNat_ofNat]
  ring

/-- The low two bits of STATUS are PHASE (R53). -/
theorem portRead_status_phase (s : State) : (portRead 1#3 s).extractLsb' 0 2 = s.phase.code := by
  apply BitVec.eq_of_toNat_eq
  rw [BitVec.extractLsb'_toNat, portRead_status_toNat]
  have := s.phase.code.isLt
  omega

theorem Phase.code_ne_three (p : Phase) : p.code ≠ 3#2 := by cases p <;> decide

theorem portRead_dout_toNat (s : State) : (portRead 2#3 s).toNat = s.dout.toNat := by
  rw [portRead_dout, BitVec.toNat_setWidth_of_le (by decide)]

theorem portRead_kidx_toNat (s : State) : (portRead 3#3 s).toNat = s.kj.toNat * 2 ^ 16 + s.ki.toNat := by
  rw [portRead_kidx, kidxWord, BitVec.toNat_setWidth_of_le (by decide)]
  simp only [toNat_append_add, BitVec.toNat_ofNat]
  ring

theorem portRead_pidx_toNat (s : State) : (portRead 4#3 s).toNat = s.pj.toNat * 2 ^ 16 + s.pi.toNat := by
  rw [portRead_pidx, pidxWord, BitVec.toNat_setWidth_of_le (by decide)]
  simp only [toNat_append_add, BitVec.toNat_ofNat]
  ring

/-- A write to any address but CMD's is ignored (R58, R59). -/
theorem portWrite_other {a : PortAddr} (h : a ≠ 0#3) (w : Word) (s : State) : portWrite a w s = .next s :=
  serve_write_other h w s

/-- Settles O36: a concatenation is a sum of its fields at their places, and PHASE's three codes leave out 3. -/
theorem portRegisterLayouts : Obligations.PortRegisterLayouts := fun s =>
  ⟨portRead_status_toNat s, portRead_status_phase s ▸ s.phase.code_ne_three, portRead_dout_toNat s,
    portRead_kidx_toNat s, portRead_pidx_toNat s, fun _ w ha => portWrite_other ha w s, rfl⟩

/-- Settles O37: no register reaches these reads, and `err_o` is a view of ERR. -/
theorem constantPortReads : Obligations.ConstantPortReads := fun s =>
  have ⟨h6, h7⟩ := portRead_reserved s
  ⟨portRead_id s, portRead_cmd s, h6, h7, rfl⟩

/-! ## A step that serves one access -/

/-- A write to CMD runs its word at the state without that access (R52). -/
theorem step_write_cmd {s : State} {w : Word} {rest : List HostEvent} (h : s.pending = .write 0#3 w :: rest) :
    step s = runWord w (s.setPending rest) := by
  rw [step_event h, serve_write_cmd]

/-- A read adds its answer to the record of reads (R63). -/
theorem step_read {s : State} {a : PortAddr} {rest : List HostEvent} (h : s.pending = .read a :: rest) :
    step s = .next ((s.setPending rest).logRead (portRead a s)) := by
  rw [step_event h, serve_read, portRead_setPending]

/-- Settles O10: the step runs the word, and the word decodes. -/
theorem stepRunsTheDecodedCommand : Obligations.StepRunsTheDecodedCommand := by
  intro s w rest i hpend hd
  rw [step_write_cmd hpend, runWord_of_instr hd]
  rfl

/-- Settles O38: a read is answered from registers that neither taking an event nor recording an answer writes. -/
theorem portReadsHaveNoSideEffect : Obligations.PortReadsHaveNoSideEffect := by
  refine ⟨fun s a rest hpend => step_read hpend, fun s a b rest hpend => ⟨portRead a s, portRead b s, ?_⟩⟩
  rw [run_succ_of_next (step_read hpend), run_succ_of_next (step_read rfl), run_succ_of_next (step_read rfl), run_zero]
  simp only [portRead_logRead, portRead_setPending]
  simp [State.logRead, State.setPending]

/-- Settles O39: only the event is taken. -/
theorem writesOffCmdAreIgnored : Obligations.WritesOffCmdAreIgnored := by
  refine ⟨fun s a w rest ha hpend => ?_, portRead_reserved⟩
  rw [step_event hpend, serve_write_other ha]
  rfl

end Sys2Proof.Machine
end

section
/-! PROOFS. An access sees none of a later one (R64): nothing a host event does reads or writes the events waiting. -/

namespace Sys2Proof.Machine

/-- An outcome with `f` applied to its next state, if it has one. -/
def mapNext (f : State → State) : Host.Outcome State Fault Refusal → Host.Outcome State Fault Refusal
  | .next s => .next (f s)
  | .fault r => .fault r
  | .refused r => .refused r

theorem mapNext_next (f : State → State) (s : State) : mapNext f (.next s) = .next (f s) := rfl

theorem mapNext_ite {p : Prop} [Decidable p] (f : State → State) (o o' : Host.Outcome State Fault Refusal) :
    mapNext f (if p then o else o') = if p then mapNext f o else mapNext f o' := apply_ite ..

/-! ## Whatever waits, an operation's outcome is the same but for what waits -/

section
variable (es : List HostEvent)

theorem guarded_setPending {op : Op} {rule : State → Host.Outcome State Fault Refusal} {s : State}
    (h : rule (s.setPending es) = mapNext (·.setPending es) (rule s)) :
    guarded op rule (s.setPending es) = mapNext (·.setPending es) (guarded op rule s) := by
  obtain ⟨he, hg⟩ | ⟨he, ha, hg⟩ | ⟨he, ha, hg⟩ := guarded_cases (rfl : guarded op rule s = _)
  · rw [hg, guarded_of_err (s := s.setPending es) he]
    rfl
  · rw [hg, guarded_of_not_allowed (s := s.setPending es) he ha]
    rfl
  · rw [← hg, guarded_of_allowed (s := s.setPending es) he ha, h]

theorem ksaIter_setPending (s : State) : ksaIter (s.setPending es) = (ksaIter s).setPending es := by
  by_cases hlast : s.ki + 1#9 = 256#9
  · rw [ksaIter_of_last s hlast, ksaIter_of_last (s.setPending es) hlast]
    rfl
  · rw [ksaIter_of_ne s hlast, ksaIter_of_ne (s.setPending es) hlast]
    rfl

theorem ksaIters_setPending (n : Nat) (s : State) : ksaIters n (s.setPending es) = (ksaIters n s).setPending es := by
  induction n generalizing s with
  | zero => rfl
  | succ n ih => rw [ksaIters, ksaIter_setPending, ih, ksaIters]

theorem exec_setPending (i : Instr) (s : State) :
    exec i (s.setPending es) = mapNext (·.setPending es) (exec i s) := by
  cases i with
  | clr => rfl
  | nop => rw [exec_nop, exec_nop]; exact guarded_setPending es rfl
  | keywr a d => rw [exec_keywr, exec_keywr]; exact guarded_setPending es rfl
  | keylen n => rw [exec_keylen, exec_keylen]; exact guarded_setPending es (by rw [mapNext_ite]; rfl)
  | keyrd a => rw [exec_keyrd, exec_keyrd]; exact guarded_setPending es rfl
  | ksainit => rw [exec_ksainit, exec_ksainit]; exact guarded_setPending es (by rw [mapNext_ite]; rfl)
  | ksastep =>
    rw [exec_ksastep, exec_ksastep]
    refine guarded_setPending es ?_
    rw [mapNext_ite, mapNext_ite, mapNext_next, ← ksaIter_setPending]
    rfl
  | ksa =>
    rw [exec_ksa, exec_ksa]
    refine guarded_setPending es ?_
    rw [mapNext_ite, mapNext_next, mapNext_next, ← ksaIters_setPending]
    rfl
  | xorb d => rw [exec_xorb, exec_xorb]; exact guarded_setPending es rfl
  | srd a => rw [exec_srd, exec_srd]; exact guarded_setPending es rfl

theorem rejectWord_setPending (c : ErrorCode) (s : State) :
    rejectWord c (s.setPending es) = (rejectWord c s).setPending es := by
  rw [rejectWord_eq, rejectWord_eq, apply_ite (State.setPending · es)]
  rfl

theorem runWord_setPending (w : Word) (s : State) :
    runWord w (s.setPending es) = mapNext (·.setPending es) (runWord w s) := by
  cases hd : decode w with
  | illegal => rw [runWord_of_illegal hd, runWord_of_illegal hd, rejectWord_setPending, mapNext_next]
  | reserved op => rw [runWord_of_reserved hd, runWord_of_reserved hd, rejectWord_setPending, mapNext_next]
  | instr i => rw [runWord_of_instr hd, runWord_of_instr hd, exec_setPending]

theorem serve_setPending (e : HostEvent) (s : State) :
    serve e (s.setPending es) = mapNext (·.setPending es) (serve e s) := by
  cases e with
  | reset => rfl
  | read a => rfl
  | write a w =>
    by_cases ha : a = 0#3
    · subst ha
      rw [serve_write_cmd, serve_write_cmd, runWord_setPending]
    · rw [serve_write_other ha, serve_write_other ha, mapNext_next]

end

/-- Settles O40: the two steps serve the same event at states that differ only in what waits. -/
theorem laterAccessesDoNotMatter : Obligations.LaterAccessesDoNotMatter := by
  intro s t e more hpend hstep
  rw [step_event hpend] at hstep
  calc step { s with pending := e :: more }
      = serve e ((s.setPending []).setPending more) := step_event rfl
    _ = mapNext (·.setPending more) (serve e (s.setPending [])) := serve_setPending more e _
    _ = .next { t with pending := more } := by rw [hstep]; rfl

end Sys2Proof.Machine
end

section
/-! PROOFS. The decoder and the encoder (30_encoding.md): a command word's fields, the rows of the opcode table a word spells
(R74), each command's one word (R75, R79), and the errors of words that do not decode (R76, R77). -/

namespace Sys2Proof

/-! ## Fields of a word (R71) -/

/-- Under a mask of ones over a field, the field of a word stays. -/
theorem extractLsb'_and_of_allOnes {m : Word} {lo len : Nat} (h : m.extractLsb' lo len = .allOnes len) (w : Word) :
    (w &&& m).extractLsb' lo len = w.extractLsb' lo len := by
  rw [BitVec.extractLsb'_and, h, BitVec.and_allOnes]

/-- A value put in a field's place is what the field holds. -/
theorem extractLsb'_setWidth_shiftLeft {n lo : Nat} (h : lo + n ≤ 32) (x : BitVec n) :
    (x.setWidth 32 <<< lo).extractLsb' lo n = x := by
  ext i hi
  have hlo : lo + i < 32 := by omega
  simp [hlo, hi]

/-- A value put in its place leaves zeros in the fields above and below it. -/
theorem extractLsb'_setWidth_shiftLeft_of_disjoint {n lo start len : Nat} (h : start + len ≤ lo ∨ lo + n ≤ start)
    (x : BitVec n) : (x.setWidth 32 <<< lo).extractLsb' start len = 0#len := by
  ext i hi
  obtain hbelow | habove := h
  · simp [show start + i < lo by omega]
  · simp [BitVec.getLsbD_of_ge x (start + i - lo) (by omega)]

/-- A field taken from a word and put back in its place: the word with zeros elsewhere. -/
theorem setWidth_extractLsb'_shiftLeft (w : Word) (lo n : Nat) :
    (w.extractLsb' lo n).setWidth 32 <<< lo = w &&& (BitVec.allOnes n).setWidth 32 <<< lo := by
  ext i hi
  by_cases hlo : i < lo
  · simp [hlo]
  · simp [hlo, hi, Nat.add_sub_cancel' (Nat.le_of_not_lt hlo), Bool.and_comm]

/-- A word is its opcode byte and its low 24 bits. -/
theorem word_eq_iff (v w : Word) :
    v = w ↔ opField v = opField w ∧ v &&& 0x00FFFFFF#32 = w &&& 0x00FFFFFF#32 := by
  refine ⟨fun h => h ▸ ⟨rfl, rfl⟩, fun ⟨hop, hlow⟩ => ?_⟩
  have hsplit (u : Word) : u = u &&& 0x00FFFFFF#32 ||| (opField u).setWidth 32 <<< 24 := by
    rw [opField, setWidth_extractLsb'_shiftLeft, ← BitVec.and_or_distrib_left]
    exact BitVec.and_allOnes.symm
  rw [hsplit v, hsplit w, hop, hlow]

theorem aField_toNat (w : Word) : (aField w).toNat = w.toNat / 2 ^ 16 % 2 ^ 8 := by
  rw [aField, BitVec.extractLsb'_toNat, Nat.shiftRight_eq_div_pow]

theorem dField_toNat (w : Word) : (dField w).toNat = w.toNat % 2 ^ 8 := BitVec.extractLsb'_toNat 0 8 w

theorem nField_toNat (w : Word) : (nField w).toNat = w.toNat % 2 ^ 9 := BitVec.extractLsb'_toNat 0 9 w

@[simp] theorem aField_or (v w : Word) : aField (v ||| w) = aField v ||| aField w := BitVec.extractLsb'_or
@[simp] theorem dField_or (v w : Word) : dField (v ||| w) = dField v ||| dField w := BitVec.extractLsb'_or
@[simp] theorem nField_or (v w : Word) : nField (v ||| w) = nField v ||| nField w := BitVec.extractLsb'_or

theorem inD_eq_shiftLeft (d : Byte) : inD d = d.setWidth 32 <<< 0 := (BitVec.shiftLeft_zero _).symm
theorem inN_eq_shiftLeft (n : Count) : inN n = n.setWidth 32 <<< 0 := (BitVec.shiftLeft_zero _).symm

@[simp] theorem aField_inA (a : Byte) : aField (inA a) = a := extractLsb'_setWidth_shiftLeft (by decide) a
@[simp] theorem dField_inD (d : Byte) : dField (inD d) = d :=
  inD_eq_shiftLeft d ▸ extractLsb'_setWidth_shiftLeft (by decide) d
@[simp] theorem nField_inN (n : Count) : nField (inN n) = n :=
  inN_eq_shiftLeft n ▸ extractLsb'_setWidth_shiftLeft (by decide) n
@[simp] theorem aField_inD (d : Byte) : aField (inD d) = 0#8 :=
  inD_eq_shiftLeft d ▸ extractLsb'_setWidth_shiftLeft_of_disjoint (.inr (by decide)) d
@[simp] theorem dField_inA (a : Byte) : dField (inA a) = 0#8 :=
  extractLsb'_setWidth_shiftLeft_of_disjoint (.inl (by decide)) a

theorem inA_aField (w : Word) : inA (aField w) = w &&& 0x00FF0000#32 := setWidth_extractLsb'_shiftLeft w 16 8
theorem inD_dField (w : Word) : inD (dField w) = w &&& 0x000000FF#32 := by
  rw [inD_eq_shiftLeft]
  exact setWidth_extractLsb'_shiftLeft w 0 8
theorem inN_nField (w : Word) : inN (nField w) = w &&& 0x000001FF#32 := by
  rw [inN_eq_shiftLeft]
  exact setWidth_extractLsb'_shiftLeft w 0 9

/-! ## Rows of the opcode table (R72, R74) -/

theorem opOfCode_code (op : Op) : opOfCode op.code = some op := by cases op <;> rfl

theorem Op.code_injective : Function.Injective Op.code := fun x y h =>
  Option.some.inj (by rw [← opOfCode_code x, h, opOfCode_code])

theorem opOfCode_eq_some_iff {c : Byte} {op : Op} : opOfCode c = some op ↔ c = op.code := by
  refine ⟨fun h => BitVec.eq_of_toNat_eq ?_, fun h => h ▸ opOfCode_code op⟩
  unfold opOfCode at h
  split at h <;> cases h <;> assumption

@[simp] theorem opField_matchWord (op : Op) : opField op.matchWord = op.code :=
  extractLsb'_setWidth_shiftLeft (by decide) op.code

theorem matchWord_and_low (op : Op) : op.matchWord &&& 0x00FFFFFF#32 = 0#32 := by cases op <;> rfl

@[simp] theorem aField_matchWord (op : Op) : aField op.matchWord = 0#8 :=
  extractLsb'_setWidth_shiftLeft_of_disjoint (.inl (by decide)) op.code
@[simp] theorem dField_matchWord (op : Op) : dField op.matchWord = 0#8 :=
  extractLsb'_setWidth_shiftLeft_of_disjoint (.inl (by decide)) op.code
@[simp] theorem nField_matchWord (op : Op) : nField op.matchWord = 0#9 :=
  extractLsb'_setWidth_shiftLeft_of_disjoint (.inl (by decide)) op.code

/-- Every mask has ones over the whole opcode byte (R72). -/
theorem opField_mask (op : Op) : opField op.mask = .allOnes 8 := by cases op <;> rfl

theorem hasReservedBit_eq_false_iff {op : Op} {w : Word} :
    hasReservedBit op w = false ↔ w &&& (op.mask &&& 0x00FFFFFF#32) = 0#32 := bne_eq_false_iff_eq

/-- A word spells a row exactly when it has the row's opcode and no reserved bit (R74, R75). -/
theorem and_mask_eq_matchWord_iff {w : Word} {op : Op} :
    w &&& op.mask = op.matchWord ↔ opField w = op.code ∧ hasReservedBit op w = false := by
  have hop : opField (w &&& op.mask) = opField w := extractLsb'_and_of_allOnes (opField_mask op) w
  rw [word_eq_iff, hop, opField_matchWord, matchWord_and_low, BitVec.and_assoc, hasReservedBit_eq_false_iff]

/-! ## Decoding (R75 to R77) -/

theorem decode_of_illegal {w : Word} (h : ∀ op : Op, opField w ≠ op.code) : decode w = .illegal := by
  have hnone : opOfCode (opField w) = none :=
    Option.eq_none_iff_forall_ne_some.mpr fun op hop => h op (opOfCode_eq_some_iff.mp hop)
  simp only [decode, hnone]

theorem decode_of_code {w : Word} {op : Op} (h : opField w = op.code) :
    decode w = if hasReservedBit op w then .reserved op else .instr (op.instr w) := by
  simp only [decode, h, opOfCode_code]

theorem decode_of_reserved {w : Word} {op : Op} (h : opField w = op.code) (hbit : hasReservedBit op w = true) :
    decode w = .reserved op := by
  rw [decode_of_code h, if_pos hbit]

/-- A word that spells a row decodes to that row's command on the word's fields. -/
theorem decode_of_and_mask {w : Word} {op : Op} (h : w &&& op.mask = op.matchWord) :
    decode w = .instr (op.instr w) := by
  obtain ⟨hop, hbit⟩ := and_mask_eq_matchWord_iff.mp h
  rw [decode_of_code hop, hbit]
  rfl

@[simp] theorem Op.op_instr (op : Op) (w : Word) : (op.instr w).op = op := by cases op <;> rfl

/-- A word that decodes to a command spells its row, and the command is the row's on the word's fields. -/
theorem decode_eq_instr {w : Word} {i : Instr} (h : decode w = .instr i) :
    w &&& i.op.mask = i.op.matchWord ∧ i = i.op.instr w := by
  cases hc : opOfCode (opField w) with
  | none => simp [decode, hc] at h
  | some op =>
    have hop := opOfCode_eq_some_iff.mp hc
    rw [decode_of_code hop] at h
    split at h
    next => cases h
    next hbit =>
      cases h
      rw [Op.op_instr]
      exact ⟨and_mask_eq_matchWord_iff.mpr ⟨hop, by simpa using hbit⟩, rfl⟩

/-! ## Encoding (R72, R79) -/

/-- Every command's word spells the command's row. -/
theorem encode_and_mask (i : Instr) : encode i &&& i.op.mask = i.op.matchWord := by
  cases i with
  | nop => exact Laws.TableRow.nop
  | clr => exact Laws.TableRow.clr
  | keywr a d => exact Laws.TableRow.keywr a d
  | keylen n => exact Laws.TableRow.keylen n
  | keyrd a => exact Laws.TableRow.keyrd a
  | ksainit => exact Laws.TableRow.ksainit
  | ksastep => exact Laws.TableRow.ksastep
  | ksa => exact Laws.TableRow.ksa
  | xorb d => exact Laws.TableRow.xorb d
  | srd a => exact Laws.TableRow.srd a

/-- The fields of a command's word hold the command's operands. -/
theorem instr_encode (i : Instr) : i.op.instr (encode i) = i := by
  cases i <;> simp [Instr.op, Op.instr, encode]

/-- The word of a row's command on a word's fields: the row's match value, and the word where the mask has zeros. -/
theorem encode_instr (op : Op) (w : Word) : encode (op.instr w) = op.matchWord ||| (w &&& ~~~op.mask) := by
  cases op with
  | nop | clr | ksainit | ksastep | ksa =>
    have hmask : ~~~Format.f0.mask = 0#32 := rfl
    simp [Op.instr, encode, Op.mask, Op.format, hmask]
  | keywr =>
    have hmask : ~~~Op.keywr.mask = 0x00FF0000#32 ||| 0x000000FF#32 := rfl
    rw [Op.instr, encode, inA_aField, inD_dField, hmask, BitVec.and_or_distrib_left, BitVec.or_assoc]
  | keylen => exact congrArg (Op.keylen.matchWord ||| ·) (inN_nField w)
  | keyrd => exact congrArg (Op.keyrd.matchWord ||| ·) (inA_aField w)
  | xorb => exact congrArg (Op.xorb.matchWord ||| ·) (inD_dField w)
  | srd => exact congrArg (Op.srd.matchWord ||| ·) (inA_aField w)

/-- Settles O1: a command's word spells its row, and the row's fields hold its operands. -/
theorem decodeReadsBackEveryEncoding : Obligations.DecodeReadsBackEveryEncoding := fun i => by
  rw [decode_of_and_mask (encode_and_mask i), instr_encode]

/-- Settles O2: the word is its row's match value where the mask has ones, and the operands' bits elsewhere. -/
theorem decodedCommandEncodesToItsWord : Obligations.DecodedCommandEncodesToItsWord := by
  intro w i hd
  obtain ⟨hrow, hi⟩ := decode_eq_instr hd
  calc encode i = i.op.matchWord ||| (w &&& ~~~i.op.mask) := by rw [← encode_instr, ← hi]
    _ = w &&& (i.op.mask ||| ~~~i.op.mask) := by rw [← hrow, ← BitVec.and_or_distrib_left]
    _ = w := by rw [BitVec.or_not_self, BitVec.and_allOnes]

/-- Settles O3: the rows' values are the table's, and a row is told by its opcode byte. -/
theorem wordSpellsTheRowItMatches : Obligations.WordSpellsTheRowItMatches := by
  refine ⟨by decide, fun w op => ⟨?_, fun h => ⟨_, decode_of_and_mask h, Op.op_instr op w⟩⟩, fun w x y hx hy => ?_⟩
  · rintro ⟨i, hd, rfl⟩
    exact (decode_eq_instr hd).1
  · obtain ⟨hx, -⟩ := and_mask_eq_matchWord_iff.mp hx
    obtain ⟨hy, -⟩ := and_mask_eq_matchWord_iff.mp hy
    exact Op.code_injective (hx.symm.trans hy)

/-- Settles O4: a decoded command is its row's on the word's fields. -/
theorem operandsAreTheWordsFields : Obligations.OperandsAreTheWordsFields := by
  intro w i hd
  obtain ⟨-, hi⟩ := decode_eq_instr hd
  rw [hi]
  cases i with
  | nop | clr | ksainit | ksastep | ksa => trivial
  | keywr => exact ⟨aField_toNat w, dField_toNat w⟩
  | keylen => exact nField_toNat w
  | keyrd | srd => exact aField_toNat w
  | xorb => exact dField_toNat w

/-- Settles O7: each word's opcode byte and operand bits stand in it as R71 and R72 place them. -/
theorem sampleWordsDecode : Obligations.SampleWordsDecode := by
  unfold Obligations.SampleWordsDecode
  decide

end Sys2Proof

namespace Sys2Proof.Machine

/-! ## Words that do not decode, written to CMD (R76, R77) -/

/-- With ERR = 0 an illegal word written to CMD raises E_ILLEGAL_OP and does nothing else. -/
theorem step_illegal {s : State} {w : Word} {rest : List HostEvent} (he : s.err = false)
    (hpend : s.pending = .write 0#3 w :: rest) (hd : decode w = .illegal) :
    step s = .next { s with pending := rest, err := true, ecode := .illegalOp } := by
  rw [step_write_cmd hpend, runWord_of_illegal hd, rejectWord_eq, State.setPending_err, he]
  rfl

/-- With ERR = 0 a word with a reserved bit written to CMD raises E_RSVD_FIELD and does nothing else. -/
theorem step_reserved {s : State} {w : Word} {rest : List HostEvent} {op : Op} (he : s.err = false)
    (hpend : s.pending = .write 0#3 w :: rest) (hd : decode w = .reserved op) :
    step s = .next { s with pending := rest, err := true, ecode := .rsvdField } := by
  rw [step_write_cmd hpend, runWord_of_reserved hd, rejectWord_eq, State.setPending_err, he]
  rfl

/-- A format's mask below bit 24 has ones over the format's reserved field, so a word without a reserved bit has 0 there. -/
theorem reservedField_eq_zero {op : Op} {w : Word} (h : hasReservedBit op w = false) :
    reservedField op.format w = 0 := by
  rw [hasReservedBit_eq_false_iff] at h
  have hzero {lo len : Nat} (hm : (op.mask &&& 0x00FFFFFF#32).extractLsb' lo len = .allOnes len) :
      (w.extractLsb' lo len).toNat = 0 := by
    rw [← extractLsb'_and_of_allOnes hm, h, BitVec.extractLsb'_zero, BitVec.toNat_zero]
  cases op <;> exact hzero rfl

/-- Settles O5: an opcode byte in one of the five ranges is no row's. -/
theorem illegalOpcodeRaisesAndChangesNothingElse : Obligations.IllegalOpcodeRaisesAndChangesNothingElse := by
  intro s w rest c he hpend hc hrange
  refine step_illegal he hpend (decode_of_illegal fun op hop => ?_)
  have hcode : c = op.code.toNat := hc ▸ congrArg BitVec.toNat hop
  rw [hcode] at hrange
  exact absurd hrange (by cases op <;> decide)

/-- Settles O6: a reserved field that is not 0 holds a bit the decoder rejects. -/
theorem reservedBitRaisesAndChangesNothingElse : Obligations.ReservedBitRaisesAndChangesNothingElse := by
  intro s w rest op he hpend hop hfield
  refine step_reserved he hpend (decode_of_reserved hop ?_)
  exact Bool.eq_true_of_not_eq_false fun h => hfield (reservedField_eq_zero h)

end Sys2Proof.Machine
end

section
/-! PROOFS. The assembler (R79) and its pseudo-instructions (R80, R61). -/

namespace Sys2Proof.Machine

/-! ## Well-formed lines and their words (R79) -/

theorem assemble_of_wellFormed {line : AsmLine} (h : line.wellFormed = true) :
    assemble line = some ((expand line).map encode) := if_pos h

theorem assemble_of_not_wellFormed {line : AsmLine} (h : ¬ line.wellFormed = true) : assemble line = none := if_neg h

@[simp] theorem byteOperand_iff {n : Nat} : byteOperand n = true ↔ n < 256 := decide_eq_true_iff

theorem keywr_wellFormed_iff {a d : Nat} : (AsmLine.keywr a d).wellFormed = true ↔ a < 256 ∧ d < 256 := by
  simp [AsmLine.wellFormed]

theorem keylen_wellFormed_iff {n : Nat} : (AsmLine.keylen n).wellFormed = true ↔ n < 512 := decide_eq_true_iff

theorem keyrd_wellFormed_iff {a : Nat} : (AsmLine.keyrd a).wellFormed = true ↔ a < 256 := byteOperand_iff
theorem xorb_wellFormed_iff {d : Nat} : (AsmLine.xorb d).wellFormed = true ↔ d < 256 := byteOperand_iff
theorem srd_wellFormed_iff {a : Nat} : (AsmLine.srd a).wellFormed = true ↔ a < 256 := byteOperand_iff

theorem loadkey_wellFormed_iff {bytes : List Nat} : (AsmLine.loadkey bytes).wellFormed = true ↔
    1 ≤ bytes.length ∧ bytes.length ≤ 256 ∧ ∀ b ∈ bytes, b < 256 := by
  simp [AsmLine.wellFormed, and_assoc]

theorem loadkey128_wellFormed_iff {k : Nat} : (AsmLine.loadkey128 k).wellFormed = true ↔ k < 2 ^ 128 :=
  decide_eq_true_iff

/-- An index in range, in the A field's place, as the assembler computes it. -/
theorem inA_ofNat {a : Nat} (h : a < 256) : inA (BitVec.ofNat 8 a) = BitVec.ofNat 32 (a <<< 16) := by
  apply BitVec.eq_of_toNat_eq
  simp [inA, Nat.mod_eq_of_lt h, Nat.mod_eq_of_lt (show a < 4294967296 by omega)]

theorem inD_ofNat {d : Nat} (h : d < 256) : inD (BitVec.ofNat 8 d) = BitVec.ofNat 32 d := by
  apply BitVec.eq_of_toNat_eq
  simp [inD, Nat.mod_eq_of_lt h]

theorem inN_ofNat {n : Nat} (h : n < 512) : inN (BitVec.ofNat 9 n) = BitVec.ofNat 32 n := by
  apply BitVec.eq_of_toNat_eq
  simp [inN, Nat.mod_eq_of_lt h]

/-- Settles O8: a line in its ranges is one command, and its word has the operands' numbers in their places. -/
theorem assemblerWordsAndRefusals : Obligations.AssemblerWordsAndRefusals := by
  refine ⟨rfl, rfl, rfl, rfl, rfl, fun a d ha hd => ?_, fun n hn => ?_, fun a ha => ?_, fun d hd => ?_, fun a ha => ?_,
    fun a d h => ?_, fun n hn => ?_, fun a ha => ⟨?_, ?_, ?_⟩⟩
  · rw [assemble_of_wellFormed (keywr_wellFormed_iff.mpr ⟨ha, hd⟩), BitVec.ofNat_or, BitVec.ofNat_or, ← inA_ofNat ha,
      ← inD_ofNat hd]
    rfl
  · rw [assemble_of_wellFormed (keylen_wellFormed_iff.mpr hn), BitVec.ofNat_or, ← inN_ofNat hn]
    rfl
  · rw [assemble_of_wellFormed (keyrd_wellFormed_iff.mpr ha), BitVec.ofNat_or, ← inA_ofNat ha]
    rfl
  · rw [assemble_of_wellFormed (xorb_wellFormed_iff.mpr hd), BitVec.ofNat_or, ← inD_ofNat hd]
    rfl
  · rw [assemble_of_wellFormed (srd_wellFormed_iff.mpr ha), BitVec.ofNat_or, ← inA_ofNat ha]
    rfl
  · exact assemble_of_not_wellFormed fun hw => by have := keywr_wellFormed_iff.mp hw; omega
  · exact assemble_of_not_wellFormed fun hw => absurd (keylen_wellFormed_iff.mp hw) (by omega)
  · exact assemble_of_not_wellFormed fun hw => absurd (keyrd_wellFormed_iff.mp hw) (by omega)
  · exact assemble_of_not_wellFormed fun hw => absurd (xorb_wellFormed_iff.mp hw) (by omega)
  · exact assemble_of_not_wellFormed fun hw => absurd (srd_wellFormed_iff.mp hw) (by omega)

/-! ## LOADKEY and LOADKEY128 (R80) -/

@[simp] theorem length_keyWrites (m : Nat) (bytes : List Byte) : (keyWrites m bytes).length = bytes.length := by
  induction bytes generalizing m with
  | nil => rfl
  | cons b rest ih => rw [keyWrites, List.length_cons, List.length_cons, ih]

/-- The KEYWR at place `i` writes byte `i`, at its place after the first index. -/
theorem getElem?_keyWrites (m : Nat) (bytes : List Byte) (i : Nat) :
    (keyWrites m bytes)[i]? = bytes[i]?.map (.keywr (BitVec.ofNat 8 (m + i))) := by
  induction bytes generalizing m i with
  | nil => rfl
  | cons b rest ih =>
    cases i with
    | zero => rfl
    | succ i => rw [keyWrites, List.getElem?_cons_succ, List.getElem?_cons_succ, ih, Nat.add_right_comm, Nat.add_assoc]

@[simp] theorem length_loadKey (bytes : List Byte) : (loadKey bytes).length = bytes.length + 1 := by simp [loadKey]

theorem getElem?_loadKey {bytes : List Byte} {m : Nat} (h : m < bytes.length) :
    (loadKey bytes)[m]? = some (.keywr (BitVec.ofNat 8 m) bytes[m]) := by
  rw [loadKey, List.getElem?_append_left (by simpa), getElem?_keyWrites, List.getElem?_eq_getElem h, Nat.zero_add]
  rfl

theorem getElem?_loadKey_length (bytes : List Byte) :
    (loadKey bytes)[bytes.length]? = some (.keylen (BitVec.ofNat 9 bytes.length)) := by
  simp [loadKey]

/-- Byte `m` of a 128-bit key is `K[127-8m : 120-8m]` (R61). -/
theorem keyBytes128_ofNat {k : Nat} (h : k < 2 ^ 128) : keyBytes128 (BitVec.ofNat 128 k) =
    ((List.range 16).map fun m => k / 2 ^ (120 - 8 * m) % 256).map (BitVec.ofNat 8) := by
  rw [keyBytes128, List.map_map]
  refine List.map_congr_left fun m _ => BitVec.eq_of_toNat_eq ?_
  rw [BitVec.extractLsb'_toNat, BitVec.toNat_ofNat, Nat.mod_eq_of_lt h, Nat.shiftRight_eq_div_pow]
  simp

/-- Settles O9: the word at each place of the expansion is its KEYWR's, and KEYLEN's stands at the end. -/
theorem pseudoInstructionExpansions : Obligations.PseudoInstructionExpansions := by
  refine ⟨rfl, fun bytes hpos hle hbyte => ?_, fun k hk => ?_⟩
  · refine ⟨_, assemble_of_wellFormed (loadkey_wellFormed_iff.mpr ⟨hpos, hle, hbyte⟩), ?_, fun m b hb => ?_, ?_⟩
    · simp [expand]
    · obtain ⟨hm, rfl⟩ := List.getElem?_eq_some_iff.mp hb
      have hkeywr := assemble_of_wellFormed (keywr_wellFormed_iff.mpr ⟨hm.trans_le hle, hbyte _ (List.getElem_mem hm)⟩)
      simp [hkeywr, expand, getElem?_loadKey, hm]
    · have hkeylen := assemble_of_wellFormed (keylen_wellFormed_iff.mpr (Nat.lt_of_le_of_lt hle (by decide)))
      have hlast := getElem?_loadKey_length (bytes.map (BitVec.ofNat 8))
      rw [List.length_map] at hlast
      rw [hkeylen, List.getElem?_map]
      exact congrArg (Option.map encode) hlast
  · rw [assemble_of_wellFormed (loadkey128_wellFormed_iff.mpr hk), assemble_of_wellFormed]
    · simp only [expand, keyBytes128_ofNat hk]
    · refine loadkey_wellFormed_iff.mpr ⟨by simp, by simp, fun b hb => ?_⟩
      obtain ⟨m, -, rfl⟩ := List.mem_map.mp hb
      exact Nat.mod_lt _ (by decide)

end Sys2Proof.Machine
end

section
/-! PROOFS. The key buffer commands (40_key.md): KEYWR, KEYLEN and KEYRD (R100 to R102). -/

namespace Sys2Proof.Machine

/-- With ERR = 0 a 1 in the reserved field of an opcode's format raises E_RSVD_FIELD, in the form of each command's own
statement. -/
theorem reservedBitsRaise_of_format (op : Op) {lo len : Nat}
    (h : ∀ w, reservedField op.format w = (w.extractLsb' lo len).toNat) : ReservedBitsRaise op.code lo len :=
  fun s w rest he hpend hop hbits =>
    reservedBitRaisesAndChangesNothingElse s w rest op he hpend hop (h w ▸ hbits)

theorem exec_keylen_of_phase_ne_of_lt {s : State} (he : s.err = false) (hp : s.phase ≠ .ksa) {n : Count}
    (hn : 256 < n.toNat) : exec (.keylen n) s = .next (raiseError .klenRange s) := by
  have hr : ¬ klenInRange n = true := fun h => absurd hn (Nat.not_lt.mpr (of_decide_eq_true h))
  rw [exec_keylen, guarded_of_allowed he (by simp [allowed, hp]), if_neg hr]

/-- Every phase allows KEYRD (R102). -/
theorem exec_keyrd_of_err_eq_false {s : State} (he : s.err = false) (a : Byte) :
    exec (.keyrd a) s = .next (s.setDout (readKey s a)) := by
  rw [exec_keyrd, guarded_of_allowed he rfl]

/-- Settles O19: a KEYWR its phase allows writes the one byte, and in KSA its phase does not allow it. -/
theorem keywrWritesOneKeyByte : Obligations.KeywrWritesOneKeyByte := by
  refine ⟨fun s a d he hp => ?_, fun s a d he hp => ?_, by decide, reservedBitsRaise_of_format .keywr fun _ => rfl⟩
  · exact ⟨_, exec_keywr_of_phase_ne he hp a d, rfl, byteAt_setByteAt s.key a d⟩
  · exact exec_of_not_allowed he (by rw [hp]; rfl)

/-- Settles O20: KEYLEN is checked for its phase, then for its range. -/
theorem keylenSetsTheLength : Obligations.KeylenSetsTheLength := by
  refine ⟨fun s n he hp hn => ?_, fun s n he hp hn => ?_, fun s n he hp => ?_, by decide,
    reservedBitsRaise_of_format .keylen fun _ => rfl⟩
  · exact exec_keylen_of_phase_ne he hp hn
  · exact exec_keylen_of_phase_ne_of_lt he hp hn
  · exact exec_of_not_allowed he (by rw [hp]; rfl)

/-- Settles O21: KEYRD passes every phase's check and writes DOUT alone. -/
theorem keyrdReadsOneKeyByte : Obligations.KeyrdReadsOneKeyByte :=
  ⟨fun _ a he => exec_keyrd_of_err_eq_false he a, by decide, reservedBitsRaise_of_format .keyrd fun _ => rfl⟩

end Sys2Proof.Machine
end

section
/-! PROOFS. Loading a key in any order of its bytes, and that KSA reads no byte at or above KLEN (R103). -/

namespace Sys2Proof.Machine

/-! ## The KEYWRs of a key in any order -/

/-- Writes to two indices may change places. -/
theorem setByteAt_comm (v : Bytes256) {i j : Byte} (h : i.toNat ≠ j.toNat) (b c : Byte) :
    setByteAt (setByteAt v i b) j c = setByteAt (setByteAt v j c) i b :=
  Vector.set_comm b c (hi := i.isLt) (hj := j.isLt) h

/-- KEY after one of the commands that load a key: a KEYWR writes its byte (R100), no other writes KEY. -/
def keyAfter (v : Bytes256) : Instr → Bytes256
  | .keywr a d => setByteAt v a d
  | _ => v

/-- KEYWRs in order write their bytes to KEY in that order, and nothing else. -/
theorem execAll_keywrs {s : State} (he : s.err = false) (hp : s.phase ≠ .ksa) {ws : List Instr}
    (hws : ∀ i ∈ ws, ∃ a d, i = .keywr a d) : execAll ws s = .next (s.setKey (ws.foldl keyAfter s.key)) := by
  induction ws generalizing s with
  | nil => rfl
  | cons i rest ih =>
    obtain ⟨⟨a, d, rfl⟩, hrest⟩ := List.forall_mem_cons.mp hws
    rw [execAll_cons_of_next (exec_keywr_of_phase_ne he hp a d)]
    exact ih (s := writeKey s a d) he hp hrest

theorem mem_keyWrites {m : Nat} {bytes : List Byte} {i : Instr} (h : i ∈ keyWrites m bytes) :
    ∃ k b, bytes[k]? = some b ∧ i = .keywr (BitVec.ofNat 8 (m + k)) b := by
  obtain ⟨k, hk⟩ := List.mem_iff_getElem?.mp h
  rw [getElem?_keyWrites] at hk
  obtain ⟨b, hb, rfl⟩ := Option.map_eq_some_iff.mp hk
  exact ⟨k, b, hb, rfl⟩

/-- The KEYWRs of a key of at most 256 bytes write to different indices, so any two of them may change places. -/
theorem keyAfter_comm {bytes : List Byte} (hn : bytes.length ≤ 256) {i j : Instr} (hi : i ∈ keyWrites 0 bytes)
    (hj : j ∈ keyWrites 0 bytes) (v : Bytes256) : keyAfter (keyAfter v i) j = keyAfter (keyAfter v j) i := by
  obtain ⟨k, b, hk, rfl⟩ := mem_keyWrites hi
  obtain ⟨l, c, hl, rfl⟩ := mem_keyWrites hj
  by_cases hkl : k = l
  · subst hkl
    rw [Option.some.inj (hk.symm.trans hl)]
  · obtain ⟨hk, -⟩ := List.getElem?_eq_some_iff.mp hk
    obtain ⟨hl, -⟩ := List.getElem?_eq_some_iff.mp hl
    exact setByteAt_comm v (by simp only [BitVec.toNat_ofNat]; omega) b c

/-- The KEYWRs of a key in any order do what they do in the key's order. -/
theorem execAll_perm_keyWrites {s : State} (he : s.err = false) (hp : s.phase ≠ .ksa) {ws : List Instr}
    {bytes : List Byte} (hn : bytes.length ≤ 256) (hws : ws.Perm (keyWrites 0 bytes)) :
    execAll ws s = execAll (keyWrites 0 bytes) s := by
  have hkeywr : ∀ i ∈ keyWrites 0 bytes, ∃ a d, i = .keywr a d := fun i hi =>
    have ⟨_, b, _, heq⟩ := mem_keyWrites hi
    ⟨_, b, heq⟩
  rw [execAll_keywrs he hp hkeywr, execAll_keywrs he hp fun i hi => hkeywr i (hws.subset hi),
    hws.symm.foldl_eq' fun i hi j hj v => keyAfter_comm hn hi hj v]

theorem toNat_ofNat_keyLength {n : Nat} (h : n ≤ 256) : (BitVec.ofNat 9 n).toNat = n := by
  rw [BitVec.toNat_ofNat, Nat.mod_eq_of_lt (by omega)]

/-- A whole key stored: its byte at each index below its length, the old byte elsewhere. -/
theorem byteAt_storeBytes_zero {bytes : List Byte} (hn : bytes.length ≤ 256) (v : Bytes256) (k : Byte) :
    byteAt (storeBytes 0 bytes v) k = bytes.getD k.toNat (byteAt v k) := by
  rw [byteAt_storeBytes v (by omega), if_neg (Nat.not_lt_zero _), Nat.sub_zero]

/-! ## What KSA reads of KEY -/

/-- The index into KEY is below KLEN: it is `KI mod KLEN` (R122). -/
theorem keyIndex_toNat_lt {s : State} (h : 1 ≤ s.klen.toNat) : (keyIndex s).toNat < s.klen.toNat := by
  rw [keyIndex_eq, BitVec.toNat_ofNat]
  exact (Nat.mod_le ..).trans_lt (Nat.mod_lt _ h)

/-- An iteration reads one byte of KEY, and leaves KEY as it is. -/
theorem ksaIter_setKey {s : State} {v : Bytes256} (h : byteAt v (keyIndex s) = byteAt s.key (keyIndex s)) :
    ksaIter (s.setKey v) = (ksaIter s).setKey v := by
  have hkj : nextKj (s.setKey v) = nextKj s := congrArg (s.kj + readS s (kiIndex s) + ·) h
  by_cases hlast : s.ki + 1#9 = 256#9
  · rw [ksaIter_of_last s hlast, ksaIter_of_last (s.setKey v) hlast, hkj]
    rfl
  · rw [ksaIter_of_ne s hlast, ksaIter_of_ne (s.setKey v) hlast, hkj]
    rfl

theorem ksaIters_setKey (n : Nat) {s : State} {v : Bytes256} (hn : 1 ≤ s.klen.toNat)
    (h : ∀ m : Byte, m.toNat < s.klen.toNat → byteAt v m = byteAt s.key m) :
    ksaIters n (s.setKey v) = (ksaIters n s).setKey v := by
  induction n generalizing s with
  | zero => rfl
  | succ n ih =>
    rw [ksaIters, ksaIter_setKey (h _ (keyIndex_toNat_lt hn)), ksaIters]
    exact ih (by rwa [ksaIter_klen]) (by simpa using h)

theorem ne_zero_of_one_le {n : Count} (h : 1 ≤ n.toNat) : n ≠ 0#9 := fun h0 => by simp [h0] at h

/-- KSA reads no byte of KEY at or above KLEN: with other bytes there it ends in the same state but for them (R103). -/
theorem exec_ksa_setKey {s : State} {v : Bytes256} (he : s.err = false) (hn : 1 ≤ s.klen.toNat)
    (h : ∀ m : Byte, m.toNat < s.klen.toNat → byteAt v m = byteAt s.key m) :
    exec .ksa (s.setKey v) = mapNext (·.setKey v) (exec .ksa s) := by
  have hne := ne_zero_of_one_le hn
  have hstart : startSchedule (s.setKey v) = (startSchedule s).setKey v := rfl
  rw [exec_ksa_of_klen_ne_zero (s := s.setKey v) he hne, exec_ksa_of_klen_ne_zero he hne, hstart,
    ksaIters_setKey 256 (s := startSchedule s) hn h, mapNext_next]

/-- Settles O30: the KEYWRs write to different indices, so their order does not matter; and each iteration's index into KEY
is below KLEN. -/
theorem loadingAKey : Obligations.LoadingAKey := by
  refine ⟨fun s key ws he hp hpos hn hws => ?_, fun s u t he hpos hu hkey ht => ?_⟩
  · have hkeywrs := execAll_keyWrites he hp 0 key
    have hload : execAll (ws ++ [.keylen (BitVec.ofNat 9 key.length)]) s = execAll (loadKey key) s := by
      rw [loadKey, execAll_append_of_next hkeywrs,
        execAll_append_of_next ((execAll_perm_keyWrites he hp hn hws).trans hkeywrs)]
    exact ⟨_, hload.trans (execAll_loadKey he hp hn), toNat_ofNat_keyLength hn,
      byteAt_storeBytes_zero hn s.key, rfl⟩
  · calc exec .ksa u = exec .ksa (s.setKey u.key) := congrArg _ hu
      _ = mapNext (·.setKey u.key) (exec .ksa s) := exec_ksa_setKey he hpos hkey
      _ = .next { t with key := u.key } := by rw [ht]; rfl

end Sys2Proof.Machine
end

section
/-! PROOFS. The host's command sequence for one message (R143): loading the key and KSA, then one XORB and one read of DOUT
for each message byte, against the reference cipher (R120, R140). -/

namespace Sys2Proof.Machine

/-! ## The keystream follows `Prga` -/

/-- The stream runs, with no error, at the array and the two indices the reference `Prga` is at. -/
structure Streams (s : State) (f : Nat → Nat) (i j : Nat) : Prop where
  err : s.err = false
  phase : s.phase = .stream
  array : Represents s.S f
  pi : s.pi.toNat = i
  pj : s.pj.toNat = j

/-- Nothing of the stream is in DOUT, the events waiting or the log of reads. -/
theorem Streams.update {s : State} {f : Nat → Nat} {i j : Nat} (h : Streams s f i j) (b : Byte) (es : List HostEvent)
    (ws : List Word) : Streams { s with dout := b, pending := es, reads := ws } f i j :=
  ⟨h.err, h.phase, h.array, h.pi, h.pj⟩

/-- One keystream step of the block (R141) is one step of `Prga` (R140). -/
theorem Streams.prgaAdvance {s : State} {f : Nat → Nat} {i j i' j' : Nat} (h : Streams s f i j)
    (hi : i' = (i + 1) % 256) (hj : j' = (j + f i') % 256) : Streams (prgaAdvance s) (refSwap f i' j') i' j' := by
  have hpi : (s.pi + 1#8).toNat = i' := by rw [BitVec.toNat_add, h.pi, hi]; rfl
  have hpj : (s.pj + byteAt s.S (s.pi + 1#8)).toNat = j' := by rw [BitVec.toNat_add, h.pj, h.array, hpi, hj]
  have hswap := h.array.swap (s.pi + 1#8) (s.pj + byteAt s.S (s.pi + 1#8))
  rw [hpi, hpj] at hswap
  exact ⟨h.err, h.phase, hswap, hpi, hpj⟩

/-- The keystream byte of the block is the reference's. -/
theorem Streams.keystreamByte {s : State} {f : Nat → Nat} {i j : Nat} (h : Streams s f i j) :
    keystreamByte s = BitVec.ofNat 8 (f ((f i + f j) % 256)) := by
  have hindex : (byteAt s.S s.pi + byteAt s.S s.pj).toNat = (f i + f j) % 256 := by
    rw [BitVec.toNat_add, h.array, h.array, h.pi, h.pj]
  rw [keystreamByte_eq, ← hindex, ← h.array, BitVec.ofNat_toNat, BitVec.setWidth_eq]

theorem exec_xorb_of_stream {s : State} (he : s.err = false) (hp : s.phase = .stream) (d : Byte) :
    exec (.xorb d) s = .next ((prgaAdvance s).setDout (d ^^^ keystreamByte (prgaAdvance s))) := by
  rw [exec_xorb, guarded_of_allowed he (by rw [hp]; rfl)]

/-! ## Commands and reads served in order -/

theorem execAll_cons_cases {i : Instr} {is : List Instr} {s t : State} (h : execAll (i :: is) s = .next t) :
    ∃ u, exec i s = .next u ∧ execAll is u = .next t := by
  cases hi : exec i s with
  | next u => exact ⟨u, rfl, by rwa [execAll_cons_of_next hi] at h⟩
  | fault r => simp [execAll, hi] at h
  | refused r => simp [execAll, hi] at h

/-- A write of a command's word to CMD does what the command does, and takes the event. -/
theorem step_command {s t : State} {i : Instr} {rest : List HostEvent} (hpend : s.pending = .write 0#3 (encode i) :: rest)
    (h : exec i s = .next t) : step s = .next (t.setPending rest) := by
  rw [step_write_cmd hpend, runWord_of_instr (decodeReadsBackEveryEncoding i), exec_setPending, h, mapNext_next]

theorem execAll_setPending_of_next {is : List Instr} {s t : State} (h : execAll is s = .next t) (es : List HostEvent) :
    execAll is (s.setPending es) = .next (t.setPending es) := by
  induction is generalizing s with
  | nil => cases h; rfl
  | cons i is ih =>
    obtain ⟨u, hi, his⟩ := execAll_cons_cases h
    have hi' : exec i (s.setPending es) = .next (u.setPending es) := by rw [exec_setPending, hi, mapNext_next]
    rw [execAll_cons_of_next hi', ih his]

/-- The writes of commands to CMD, one step each, do what the commands do in order (R52, R64). -/
theorem run_commands {is : List Instr} {s t : State} {rest : List HostEvent}
    (hpend : s.pending = is.map (fun i => .write 0#3 (encode i)) ++ rest) (h : execAll is s = .next t) (n : Nat) :
    Sys2Proof.core.run (n + is.length) s = Sys2Proof.core.run n (t.setPending rest) := by
  induction is generalizing s t with
  | nil => cases h; cases hpend; rfl
  | cons i is ih =>
    obtain ⟨u, hi, his⟩ := execAll_cons_cases h
    rw [List.map_cons, List.cons_append] at hpend
    rw [List.length_cons, ← Nat.add_assoc, run_succ_of_next (step_command hpend hi),
      ih rfl (execAll_setPending_of_next his _)]
    rfl

/-- The accesses of R143 for a message: for each byte one XORB and one read of DOUT. -/
def messageAccesses (m : List Byte) : List HostEvent :=
  m.flatMap fun d => [.write 0#3 (encode (.xorb d)), .read 2#3]

theorem messageAccesses_cons (d : Byte) (m : List Byte) :
    messageAccesses (d :: m) = .write 0#3 (encode (.xorb d)) :: .read 2#3 :: messageAccesses m := rfl

theorem cipherAccesses_eq (key m : List Byte) : cipherAccesses key m =
    (loadKey key ++ [Instr.ksa]).map (fun i => .write 0#3 (encode i)) ++ messageAccesses m := rfl

/-- The accesses for one byte show the host its XOR with the reference's next keystream byte, and the stream is at the
reference's next place (R142, R63). -/
theorem Streams.run_byte {s : State} {f f' : Nat → Nat} {i j i' j' : Nat} {d b : Byte} {rest : List HostEvent}
    (h : Streams s f i j) (hi : i' = (i + 1) % 256) (hj : j' = (j + f i') % 256) (hf : f' = refSwap f i' j')
    (hb : b = BitVec.ofNat 8 (f' ((f' i' + f' j') % 256)) ^^^ d)
    (hpend : s.pending = .write 0#3 (encode (.xorb d)) :: .read 2#3 :: rest) :
    ∃ t, Streams t f' i' j' ∧ t.pending = rest ∧ t.reads = s.reads ++ [b.setWidth 32] ∧
      ∀ n, Sys2Proof.core.run (n + 2) s = Sys2Proof.core.run n t := by
  subst hf
  have hnext := h.prgaAdvance hi hj
  have hxorb := step_command hpend (exec_xorb_of_stream h.err h.phase d)
  rw [hnext.keystreamByte, BitVec.xor_comm, ← hb] at hxorb
  refine ⟨_, hnext.update b rest (s.reads ++ [b.setWidth 32]), rfl, rfl, fun n => ?_⟩
  rw [run_succ_of_next hxorb, run_succ_of_next (step_read rfl), portRead_dout]
  rfl

/-- Serving a message's accesses shows the host `Prga` of the message, and the stream goes on (R143). -/
theorem Streams.run_messageAccesses {s : State} {f : Nat → Nat} {i j : Nat} {m : List Byte} (h : Streams s f i j)
    (hpend : s.pending = messageAccesses m) :
    ∃ t, Sys2Proof.core.run (messageAccesses m).length s = .next t ∧ t.err = false ∧ t.phase = .stream ∧
      t.pending = [] ∧ t.reads = s.reads ++ (refPrgaFrom f i j m).map fun b => b.setWidth 32 := by
  induction m generalizing s f i j with
  | nil => exact ⟨s, rfl, h.err, h.phase, hpend, (List.append_nil _).symm⟩
  | cons d m ih =>
    obtain ⟨u, hu, hrest, hread, hrun⟩ := h.run_byte rfl rfl rfl rfl hpend
    obtain ⟨t, ht, herr, hphase, hdone, hreads⟩ := ih hu hrest
    exact ⟨t, (hrun _).trans ht, herr, hphase, hdone, by rw [hreads, hread, List.append_assoc]; rfl⟩

/-! ## From the key to the stream -/

/-- A schedule leaves PI and PJ at 0: its start clears them and its end clears them again (R121, R122). -/
theorem ksaIters_startSchedule_indices (n : Nat) (s : State) :
    (ksaIters n (startSchedule s)).pi = 0#8 ∧ (ksaIters n (startSchedule s)).pj = 0#8 := by
  refine ksaIters_induction (P := fun t => t.pi = 0#8 ∧ t.pj = 0#8) (fun t ht => ?_) n ⟨rfl, rfl⟩
  by_cases hlast : t.ki + 1#9 = 256#9
  · rw [ksaIter_of_last t hlast]
    exact ⟨rfl, rfl⟩
  · rw [ksaIter_of_ne t hlast]
    exact ht

/-- KSA with a key its iterations read starts the stream at the reference's array, with both indices 0 (R124, R125). -/
theorem KeyServes.exec_ksa {s : State} {key : List Byte} (hk : KeyServes s key) (he : s.err = false)
    (hn : s.klen ≠ 0#9) :
    ∃ t, exec .ksa s = .next t ∧ t.reads = s.reads ∧ Streams t (refKsa key).1 0 0 := by
  obtain ⟨harray, -⟩ := ksaIters_atReference hk le_rfl
  obtain ⟨hpi, hpj⟩ := ksaIters_startSchedule_indices 256 s
  exact ⟨_, exec_ksa_of_klen_ne_zero he hn, by simp, by simpa using he, ksaIters_256_phase s, harray,
    by rw [hpi]; rfl, by rw [hpj]; rfl⟩

/-- After LOADKEY the iterations read the loaded key. -/
theorem keyServes_loadKey (s : State) {key : List Byte} (hpos : 1 ≤ key.length) (hn : key.length ≤ 256) :
    KeyServes ((s.setKey (storeBytes 0 key s.key)).setKlen (BitVec.ofNat 9 key.length)) key := by
  intro i _
  have hlt : i % key.length < key.length := Nat.mod_lt _ hpos
  rw [State.setKlen_klen, toNat_ofNat_keyLength hn, State.setKlen_key, State.setKey_key, byteAt_storeBytes_zero hn,
    BitVec.toNat_ofNat, Nat.mod_eq_of_lt (hlt.trans_le hn), List.getD_eq_getElem _ _ hlt, List.getD_eq_getElem _ _ hlt]

/-- Loading a key and KSA start the stream at the reference's array for that key (R103, R125), with no read recorded. -/
theorem execAll_loadKey_ksa {s : State} {key : List Byte} (he : s.err = false) (hp : s.phase ≠ .ksa)
    (hpos : 1 ≤ key.length) (hn : key.length ≤ 256) :
    ∃ t, execAll (loadKey key ++ [.ksa]) s = .next t ∧ t.reads = s.reads ∧ Streams t (refKsa key).1 0 0 := by
  have hklen : BitVec.ofNat 9 key.length ≠ 0#9 := ne_zero_of_one_le (by rwa [toNat_ofNat_keyLength hn])
  obtain ⟨t, ht, hreads, hstream⟩ := (keyServes_loadKey s hpos hn).exec_ksa he hklen
  exact ⟨t, (execAll_append_of_next (execAll_loadKey he hp hn) _).trans (execAll_cons_of_next ht []), hreads, hstream⟩

/-- The host's sequence of R143 ends in the stream, with no access left, and has shown the host the reference cipher. -/
theorem run_cipherAccesses {s : State} {key m : List Byte} (he : s.err = false) (hp : s.phase ≠ .ksa)
    (hpos : 1 ≤ key.length) (hn : key.length ≤ 256) (hpend : s.pending = cipherAccesses key m) :
    ∃ t, Sys2Proof.core.run (cipherAccesses key m).length s = .next t ∧ t.err = false ∧ t.phase = .stream ∧
      t.pending = [] ∧ t.reads = s.reads ++ (refCipher key m).map fun b => b.setWidth 32 := by
  obtain ⟨u, hu, hreads, hstream⟩ := execAll_loadKey_ksa he hp hpos hn
  obtain ⟨t, ht⟩ := (hstream.update u.dout (messageAccesses m) u.reads).run_messageAccesses rfl
  refine ⟨t, ?_⟩
  rw [cipherAccesses_eq, List.length_append, List.length_map, Nat.add_comm, run_commands hpend hu, ← hreads]
  exact ht

/-- Settles O32: the commands before the message leave the block where `Prga` starts, and each byte's two accesses take both
one step on. -/
theorem cipherOperationAsASequence : Obligations.CipherOperationAsASequence := by
  intro s key m he hp hpos hn hpend
  obtain ⟨t, hrun, herr, -, hdone, hreads⟩ := run_cipherAccesses he hp hpos hn hpend
  exact ⟨t, hrun, herr, hdone, hreads⟩

end Sys2Proof.Machine
end

section
/-! PROOFS. The key scheduling commands (41_ksa.md): KSAINIT, KSASTEP and KSA (R121 to R126). -/

namespace Sys2Proof.Machine

/-! ## Each command as an equation -/

theorem exec_ksainit_of_klen_ne_zero {s : State} (he : s.err = false) (hn : s.klen ≠ 0#9) :
    exec .ksainit s = .next (startSchedule s) := by
  rw [exec_ksainit, guarded_of_allowed he rfl, if_neg hn]

theorem exec_ksainit_of_klen_eq_zero {s : State} (he : s.err = false) (hn : s.klen = 0#9) :
    exec .ksainit s = .next (raiseError .emptyKey s) := by
  rw [exec_ksainit, guarded_of_allowed he rfl, if_pos hn]

theorem exec_ksa_of_klen_eq_zero {s : State} (he : s.err = false) (hn : s.klen = 0#9) :
    exec .ksa s = .next (raiseError .emptyKey s) := by
  rw [exec_ksa, guarded_of_allowed he rfl, if_pos hn]

/-- In phase KSA, KSASTEP passes its checks and runs its own rule (R123). -/
theorem exec_ksastep_of_ksa {s : State} (he : s.err = false) (hp : s.phase = .ksa) :
    exec .ksastep s =
      if s.klen = 0#9 then .fault .scheduleKeyEmpty
      else if 255 < s.ki.toNat then .fault .scheduleIndex
      else .next (ksaIter s) := by
  rw [exec_ksastep, guarded_of_allowed he (by rw [hp]; rfl)]

/-- Where R122's indices are defined, KSASTEP is one iteration. -/
theorem exec_ksastep_of_indices {s : State} (he : s.err = false) (hp : s.phase = .ksa) (hn : s.klen ≠ 0#9)
    (hi : s.ki.toNat ≤ 255) : exec .ksastep s = .next (ksaIter s) := by
  rw [exec_ksastep_of_ksa he hp, if_neg hn, if_neg (Nat.not_lt.mpr hi)]

/-! ## KSAINIT and one KSASTEP -/

/-- Settles O23: KSAINIT passes every phase's check and, with a key, makes the start of a schedule. -/
theorem ksainitStartsFromTheIdentity : Obligations.KsainitStartsFromTheIdentity := by
  refine ⟨fun s he hn => ?_, fun s he hn => exec_ksainit_of_klen_eq_zero he hn, by decide,
    reservedBitsRaise_of_format .ksainit fun _ => rfl⟩
  exact ⟨_, exec_ksainit_of_klen_ne_zero he hn, byteAt_identityBytes, startSchedule_eq s⟩

/-- The new KJ as a number: R122's sum at the index KI and the key index `KI mod KLEN`. -/
theorem nextKj_toNat (s : State) : (nextKj s).toNat =
    (s.kj.toNat + (byteAt s.S (kiIndex s)).toNat + (byteAt s.key (keyIndex s)).toNat) % 256 := by
  simp [nextKj, readS, readKey]

/-- Settles O24: the numbers of R122 are the indices the iteration uses, and its end test is KI = 255 before it. -/
theorem ksastepDoesOneIteration : Obligations.KsastepDoesOneIteration := by
  refine ⟨fun s i k j he hp hn hki hi hk hj => ?_, fun s he hp => ?_, by decide,
    reservedBitsRaise_of_format .ksastep fun _ => rfl⟩
  · obtain rfl : i = kiIndex s :=
      BitVec.eq_of_toNat_eq (hi.trans (kiIndex_toNat (by omega)).symm)
    obtain rfl : k = keyIndex s := by rw [keyIndex_eq, ← hk, BitVec.ofNat_toNat, BitVec.setWidth_eq]
    obtain rfl : j = nextKj s := BitVec.eq_of_toNat_eq (hj.trans (nextKj_toNat s).symm)
    refine ⟨_, exec_ksastep_of_indices he hp (ne_zero_of_one_le hn) hki, ksaIter_kj s, ?_, fun x => ?_,
      fun hne => ?_, fun hlast => ?_⟩
    · rw [ksaIter_ki]
      bv_omega
    · rw [ksaIter_S, byteAt_swapBytes]
    · rw [ksaIter_of_ne s (by bv_omega)]
    · rw [ksaIter_of_last s (by bv_omega)]
  · exact exec_of_not_allowed he (by simpa [Instr.op, allowed] using hp)

/-- Settles O25: KSASTEP's rule tests KLEN, then KI. -/
theorem ksastepStopsWhereIndicesAreUndefined : Obligations.KsastepStopsWhereIndicesAreUndefined := by
  intro s he hp
  rw [exec_ksastep_of_ksa he hp]
  exact ⟨fun hn => if_pos hn, fun hn hi => by rw [if_neg hn, if_pos hi]⟩

/-! ## The whole schedule -/

/-- KSASTEPs from the start of a schedule are its iterations, up to the 256 that phase KSA lasts (R122, R123). -/
theorem execAll_ksasteps {s : State} (he : s.err = false) (hn : s.klen ≠ 0#9) {n : Nat} (hle : n ≤ 256) :
    execAll (List.replicate n .ksastep) (startSchedule s) = .next (ksaIters n (startSchedule s)) := by
  induction n with
  | zero => rfl
  | succ n ih =>
    have herr : (ksaIters n (startSchedule s)).err = false := by rw [ksaIters_err, startSchedule_err, he]
    have hklen : (ksaIters n (startSchedule s)).klen ≠ 0#9 := by rwa [ksaIters_klen, startSchedule_klen]
    have hphase : (ksaIters n (startSchedule s)).phase = .ksa := by
      rw [ksaIters_startSchedule_phase s (by omega), if_neg (by omega)]
    have hki : (ksaIters n (startSchedule s)).ki.toNat ≤ 255 := by
      rw [ksaIters_ki, startSchedule_ki, BitVec.zero_add, toNat_ofNat_keyLength (by omega)]
      omega
    have hstep := exec_ksastep_of_indices herr hphase hklen hki
    rw [List.replicate_succ', execAll_append_of_next (ih (by omega)), execAll_cons_of_next hstep, ksaIters_succ]
    rfl

/-- Iterations write S, KI, KJ, PI, PJ and PHASE at most (R122). -/
theorem ksaIters_frame (n : Nat) (s : State) : ksaIters n s =
    { s with
      S := (ksaIters n s).S, ki := (ksaIters n s).ki, kj := (ksaIters n s).kj, pi := (ksaIters n s).pi
      pj := (ksaIters n s).pj, phase := (ksaIters n s).phase } := by
  rw [← ksaIters_key n s, ← ksaIters_klen n s, ← ksaIters_dout n s, ← ksaIters_err n s, ← ksaIters_ecode n s,
    ← ksaIters_pending n s, ← ksaIters_reads n s, ← ksaIters_freeUse n s]

/-- A schedule writes S, KI, KJ and PHASE, and leaves PI and PJ at 0. -/
theorem ksaIters_startSchedule_frame (n : Nat) (s : State) : ksaIters n (startSchedule s) =
    { s with
      S := (ksaIters n (startSchedule s)).S, ki := (ksaIters n (startSchedule s)).ki
      kj := (ksaIters n (startSchedule s)).kj, pi := 0#8, pj := 0#8
      phase := (ksaIters n (startSchedule s)).phase } := by
  obtain ⟨hpi, hpj⟩ := ksaIters_startSchedule_indices n s
  have hframe := ksaIters_frame n (startSchedule s)
  rwa [hpi, hpj, startSchedule_key, startSchedule_klen, startSchedule_dout, startSchedule_err, startSchedule_ecode,
    startSchedule_pending, startSchedule_reads, startSchedule_freeUse] at hframe

theorem ksaIters_256_ki (s : State) : (ksaIters 256 (startSchedule s)).ki = 256#9 := by
  rw [ksaIters_ki, startSchedule_ki, BitVec.zero_add]

/-- Settles O26: in phase KSA with a key no check stops any of the 256 iterations. -/
theorem ksaRunsTheWholeSchedule : Obligations.KsaRunsTheWholeSchedule := by
  refine ⟨fun s he hn => ?_, fun s he hn => exec_ksa_of_klen_eq_zero he hn, by decide,
    reservedBitsRaise_of_format .ksa fun _ => rfl⟩
  have hframe := ksaIters_startSchedule_frame 256 s
  rw [ksaIters_256_phase] at hframe
  exact ⟨_, _, exec_ksainit_of_klen_ne_zero he hn, exec_ksa_of_klen_ne_zero he hn, execAll_ksasteps he hn le_rfl,
    ksaIters_256_ki s, hframe⟩

/-- The block's iterations read `KEY[0..KLEN-1]` as `Ksa` reads its key (R120, R125). -/
theorem keyServes_loadedKey {s : State} (hn : 1 ≤ s.klen.toNat) : KeyServes s (loadedKey s) := by
  intro i _
  have hlen : (loadedKey s).length = s.klen.toNat := by simp [loadedKey]
  have hlt : i % s.klen.toNat < (loadedKey s).length := (Nat.mod_lt _ hn).trans_eq hlen.symm
  rw [hlen, List.getD_eq_getElem _ _ hlt]
  simp [loadedKey]

/-- Settles O27: KSA and its steps are the same 256 iterations, and each is one round of `Ksa`. -/
theorem ksaComputesTheReferenceSchedule : Obligations.KsaComputesTheReferenceSchedule := by
  intro s he hn
  have hne := ne_zero_of_one_le hn
  obtain ⟨hS, hkj⟩ := ksaIters_atReference (keyServes_loadedKey hn) le_rfl
  obtain ⟨hpi, hpj⟩ := ksaIters_startSchedule_indices 256 s
  exact ⟨_, exec_ksa_of_klen_ne_zero he hne,
    (execAll_cons_of_next (exec_ksainit_of_klen_ne_zero he hne) _).trans (execAll_ksasteps he hne le_rfl),
    hS, hkj, ksaIters_256_ki s, hpi, hpj, ksaIters_256_phase s⟩

/-! ## S stays a permutation -/

/-- An iteration only swaps two entries of S (R126). -/
theorem isPermutation_ksaIter {s : State} (h : IsPermutation s.S) : IsPermutation (ksaIter s).S := by
  rw [ksaIter_S]
  exact h.swap _ _

theorem isPermutation_ksaIters_startSchedule (n : Nat) (s : State) :
    IsPermutation (ksaIters n (startSchedule s)).S :=
  ksaIters_induction (P := fun t => IsPermutation t.S) (fun _ => isPermutation_ksaIter) n isPermutation_identity

/-- Settles O28: a schedule starts at the identity permutation and each iteration swaps two entries; none writes KEY or
KLEN. -/
theorem scheduleKeepsThePermutation : Obligations.ScheduleKeepsThePermutation := by
  refine ⟨fun s t he hn h => ?_, fun s t hperm h => ?_⟩
  · rw [exec_ksainit_of_klen_ne_zero he hn, exec_ksa_of_klen_ne_zero he hn] at h
    obtain h | h := h <;> obtain rfl := Host.Outcome.next.inj h
    · exact ⟨isPermutation_identity, startSchedule_key s, startSchedule_klen s⟩
    · exact ⟨isPermutation_ksaIters_startSchedule 256 s, by rw [ksaIters_key, startSchedule_key],
        by rw [ksaIters_klen, startSchedule_klen]⟩
  · obtain ⟨hclr, -⟩ | ⟨-, rfl⟩ | ⟨-, c, -, rfl⟩ | ⟨-, -, -, -, rfl⟩ := exec_cases h
    · cases hclr
    · exact ⟨hperm, rfl, rfl⟩
    · exact ⟨hperm, rfl, rfl⟩
    · exact ⟨isPermutation_ksaIter hperm, ksaIter_key s, ksaIter_klen s⟩

end Sys2Proof.Machine
end

section
/-! PROOFS. The keystream (42_prga.md): what one XORB does and leaves unchanged (R141, R142), that its keystream byte does
not depend on the data, and that the cipher sequence run twice gives the message back (R144, R145). -/

namespace Sys2Proof.Machine

/-! ## One XORB -/

/-- The new PJ as a number: R141's sum, with S read at the new PI. -/
theorem prgaAdvance_pj_toNat (s : State) :
    (prgaAdvance s).pj.toNat = (s.pj.toNat + (byteAt s.S (s.pi + 1#8)).toNat) % 256 := by
  rw [prgaAdvance_eq, BitVec.toNat_add]

/-- The keystream byte is the entry at R141's index: the sum of the two entries, reduced mod 256. -/
theorem keystreamByte_eq_byteAt {s : State} {k : Byte}
    (hk : k.toNat = ((byteAt s.S s.pi).toNat + (byteAt s.S s.pj).toNat) % 256) : keystreamByte s = byteAt s.S k := by
  have hindex : byteAt s.S s.pi + byteAt s.S s.pj = k := BitVec.eq_of_toNat_eq (by rw [BitVec.toNat_add, hk])
  rw [keystreamByte_eq, hindex]

/-- Settles O29: in phase STREAM an XORB is one keystream step and a write of DOUT; no other phase allows it. -/
theorem xorbGivesOneKeystreamByte : Obligations.XorbGivesOneKeystreamByte := by
  refine ⟨fun s d j he hp hj => ?_, fun s d he hp => ?_, by decide, reservedBitsRaise_of_format .xorb fun _ => rfl⟩
  · obtain rfl : j = (prgaAdvance s).pj := BitVec.eq_of_toNat_eq (hj.trans (prgaAdvance_pj_toNat s).symm)
    refine ⟨_, exec_xorb_of_stream he hp d, BitVec.toNat_add s.pi 1#8, rfl, byteAt_swapBytes s.S _ _,
      fun k hk => ?_, rfl⟩
    exact congrArg (d ^^^ ·) (keystreamByte_eq_byteAt (s := prgaAdvance s) hk)
  · exact exec_of_not_allowed he (by simpa [Instr.op, allowed] using hp)

/-- Settles O34: both XORBs make the same keystream step, and DOUT is the data byte XOR the byte that step gives. -/
theorem keystreamDoesNotDependOnData : Obligations.KeystreamDoesNotDependOnData := by
  intro s c d he hp
  refine ⟨_, _, exec_xorb_of_stream he hp c, exec_xorb_of_stream he hp d, ?_, rfl⟩
  rw [State.setDout_dout, State.setDout_dout, ← BitVec.xor_assoc, ← BitVec.xor_assoc, BitVec.xor_self, BitVec.xor_self]

/-! ## The cipher sequence twice -/

/-- `Prga` reads out as many bytes as the message has (R145). -/
theorem length_refPrgaFrom (f : Nat → Nat) (i j : Nat) (m : List Byte) : (refPrgaFrom f i j m).length = m.length := by
  induction m generalizing f i j with
  | nil => rfl
  | cons d m ih => exact congrArg (· + 1) (ih ..)

/-- `Prga` from the same array and indices undoes itself: neither its array nor its indices depend on the message, and
XOR with the same byte twice gives each byte back (R144). -/
theorem refPrgaFrom_refPrgaFrom (f : Nat → Nat) (i j : Nat) (m : List Byte) :
    refPrgaFrom f i j (refPrgaFrom f i j m) = m := by
  induction m generalizing f i j with
  | nil => rfl
  | cons d m ih =>
    rw [refPrgaFrom, refPrgaFrom, ih, ← BitVec.xor_assoc, BitVec.xor_self, BitVec.zero_xor]

theorem length_refCipher (key m : List Byte) : (refCipher key m).length = m.length := length_refPrgaFrom ..

/-- The reference cipher is its own inverse under one key (R144). -/
theorem refCipher_refCipher (key m : List Byte) : refCipher key (refCipher key m) = m := refPrgaFrom_refPrgaFrom ..

/-- Settles O33: each run of the sequence shows the host the reference cipher of its message, and that cipher is an
involution that keeps the length. -/
theorem cipherOperationIsAnInvolution : Obligations.CipherOperationIsAnInvolution := by
  intro s key m he hp hpos hn hpend
  obtain ⟨t, hrun, herr, hphase, hdone, hreads⟩ := run_cipherAccesses he hp hpos hn hpend
  refine ⟨t, refCipher key m, hrun, hreads, length_refCipher key m, herr, hphase, hdone, fun v hv hvp hvpend => ?_⟩
  obtain ⟨u, hrun', herr', -, -, hreads'⟩ := run_cipherAccesses hv hvp hpos hn hvpend
  rw [refCipher_refCipher] at hreads'
  exact ⟨u, hrun', herr', hreads'⟩

end Sys2Proof.Machine
end

section
/-! PROOFS. The control and debug commands (43_control.md): NOP, CLR and SRD (R160 to R162). -/

namespace Sys2Proof.Machine

/-! ## Words -/

/-- A command is decoded from its own word alone (R74, R79). -/
theorem decode_eq_instr_iff {w : Word} {i : Instr} : decode w = .instr i ↔ w = encode i :=
  ⟨fun hd => (decodedCommandEncodesToItsWord w i hd).symm, fun hw => hw ▸ decodeReadsBackEveryEncoding i⟩

/-- A legal opcode whose format's reserved field is not 0 decodes to a rejected word (R77). -/
theorem decode_of_reservedField_ne_zero {w : Word} {op : Op} (hop : opField w = op.code)
    (hfield : reservedField op.format w ≠ 0) : decode w = .reserved op :=
  decode_of_reserved hop (Bool.eq_true_of_not_eq_false fun h => hfield (reservedField_eq_zero h))

/-- In the error state a word with a reserved bit is refused: only its event is taken (R186). -/
theorem step_reserved_of_err {s : State} {w : Word} {rest : List HostEvent} {op : Op} (he : s.err = true)
    (hpend : s.pending = .write 0#3 w :: rest) (hd : decode w = .reserved op) :
    step s = .next { s with pending := rest } := by
  rw [step_write_cmd hpend, runWord_of_reserved hd, rejectWord_eq, State.setPending_err, if_pos he]
  rfl

/-! ## The commands -/

/-- NOP is the identity: refused in the error state, and nothing done outside it (R160). -/
theorem exec_nop_eq (s : State) : exec .nop s = .next s := by
  cases he : s.err with
  | true => exact exec_of_err he (by decide)
  | false => rw [exec_nop, guarded_of_allowed he rfl]

/-- KSA and STREAM allow SRD (R162). -/
theorem exec_srd_of_phase_ne {s : State} (he : s.err = false) (hp : s.phase ≠ .idle) (a : Byte) :
    exec (.srd a) s = .next (s.setDout (readS s a)) := by
  rw [exec_srd, guarded_of_allowed he (by simp [allowed, hp])]

/-- Settles O17: NOP is the identity with or without an error, and its word is its row's match value. -/
theorem nopChangesNothing : Obligations.NopChangesNothing :=
  ⟨exec_nop_eq, by decide, reservedBitsRaise_of_format .nop fun _ => rfl⟩

/-- Settles O18: CLR runs unchecked and leaves what reset leaves, but for S and the model's own fields; any other word with
its opcode has a reserved bit. -/
theorem clrIsSoftReset : Obligations.ClrIsSoftReset := by
  refine ⟨fun s => ?_, fun w => decode_eq_instr_iff, fun s w rest he hpend hop hbits => ?_,
    reservedBitsRaise_of_format .clr fun _ => rfl⟩
  · rw [exec_clr, clear_eq]
  · exact step_reserved_of_err he hpend (decode_of_reservedField_ne_zero (op := .clr) hop hbits)

/-- Settles O22: SRD is checked for its phase, and where allowed it writes DOUT alone. -/
theorem srdReadsOneEntryOfS : Obligations.SrdReadsOneEntryOfS := by
  refine ⟨fun s a he hp => ?_, fun s a he hp => ?_, by decide, reservedBitsRaise_of_format .srd fun _ => rfl⟩
  · exact exec_srd_of_phase_ne he hp a
  · exact exec_of_not_allowed he (by rw [hp]; rfl)

end Sys2Proof.Machine
end

section
/-! PROOFS. Errors (60_exceptions.md): which error a command word raises and what raising it writes (R181 to R185), the error
state, and the two ways out of it (R186 to R188). -/

namespace Sys2Proof.Machine

/-! ## In the error state (R186 to R188) -/

/-- In the error state every word but CLR's is refused, whether it decodes or not (R186). -/
theorem runWord_of_err {s : State} {w : Word} (he : s.err = true) (hw : w ≠ 0x01000000#32) : runWord w s = .next s := by
  cases hd : decode w with
  | illegal => rw [runWord_of_illegal hd, rejectWord_eq, if_pos he]
  | reserved op => rw [runWord_of_reserved hd, rejectWord_eq, if_pos he]
  | instr i =>
    have hclr : i ≠ .clr := fun hi => hw (decode_eq_instr_iff.mp (hi ▸ hd))
    rw [runWord_of_instr hd, exec_of_err he hclr]

/-- A refused word takes its event and changes nothing else (R186). -/
theorem step_refused {s : State} {w : Word} {rest : List HostEvent} (he : s.err = true)
    (hpend : s.pending = .write 0#3 w :: rest) (hw : w ≠ 0x01000000#32) : step s = .next { s with pending := rest } := by
  rw [step_write_cmd hpend, runWord_of_err (s := s.setPending rest) he hw]
  rfl

/-- CLR's word runs CLR, with or without an error (R161). -/
theorem step_clr {s : State} {rest : List HostEvent} (hpend : s.pending = .write 0#3 0x01000000#32 :: rest) :
    step s = .next (clear (s.setPending rest)) := by
  have hd : decode 0x01000000#32 = .instr .clr := decode_eq_instr_iff.mpr rfl
  rw [step_write_cmd hpend, runWord_of_instr hd, exec_clr]

/-- All a step from the error state can do: stay in it with its code, or serve a reset or CLR's word. -/
theorem step_of_err_cases {s t : State} (he : s.err = true) (h : step s = .next t) :
    (t.err = true ∧ t.ecode = s.ecode) ∨
    ∃ rest, (s.pending = .reset :: rest ∧ t = hardReset (s.setPending rest)) ∨
      (s.pending = .write 0#3 0x01000000#32 :: rest ∧ t = clear (s.setPending rest)) := by
  obtain ⟨-, ho⟩ | ⟨e, rest, hpend, hserve⟩ := step_cases h
  · cases ho; exact .inl ⟨he, rfl⟩
  cases e with
  | reset => cases hserve; exact .inr ⟨rest, .inl ⟨hpend, rfl⟩⟩
  | read a => cases hserve; exact .inl ⟨he, rfl⟩
  | write a w =>
    by_cases ha : a = 0#3
    swap
    · rw [serve_write_other ha] at hserve
      cases hserve; exact .inl ⟨he, rfl⟩
    subst ha
    by_cases hw : w = 0x01000000#32
    · subst hw
      rw [step_clr hpend] at h
      cases h; exact .inr ⟨rest, .inr ⟨hpend, rfl⟩⟩
    · rw [step_refused he hpend hw] at h
      cases h; exact .inl ⟨he, rfl⟩

/-- Settles O14: a word that does not decode is rejected without effect, and every command but CLR is refused by its check. -/
theorem errorStateRefusesAllButClr : Obligations.ErrorStateRefusesAllButClr :=
  ⟨fun _ _ _ he hpend hw => step_refused he hpend hw, fun _ _ he hi => exec_of_err he hi,
    fun _ _ _ _ hpend => step_read hpend⟩

/-- Settles O15: every other event keeps ERR, and CLR and reset write the reset values. -/
theorem errorStateLeftOnlyByClrOrReset : Obligations.ErrorStateLeftOnlyByClrOrReset := by
  refine ⟨fun s t he hstep ht => ?_, fun s rest hpend => ?_⟩
  · obtain ⟨hstay, -⟩ | ⟨rest, hleft⟩ := step_of_err_cases he hstep
    · simp [ht] at hstay
    · exact ⟨rest, hleft.imp And.left And.left⟩
  · obtain hreset | hclr := hpend
    · exact ⟨_, (step_event hreset).trans (serve_reset _), rfl, rfl, hardReset_eq _⟩
    · exact ⟨_, step_clr hclr, rfl, rfl, clear_eq _⟩

/-- Settles O16: a step that leaves the error state serves a reset or CLR's word, and both clear the code. -/
theorem firstErrorCodeIsKept : Obligations.FirstErrorCodeIsKept := by
  intro s t he hstep
  obtain hstay | ⟨rest, ⟨-, rfl⟩ | ⟨-, rfl⟩⟩ := step_of_err_cases he hstep
  · exact .inl hstay
  · exact .inr ⟨rfl, rfl⟩
  · exact .inr ⟨rfl, rfl⟩

/-! ## The order of the checks (R185) -/

/-- Settles O11: one clause per branch of R185, and the table read off phase by phase. -/
theorem commandWordChecksInOrder : Obligations.CommandWordChecksInOrder := by
  refine ⟨fun s w rest hpend => ⟨fun _ hw => ?_, fun he hw => step_refused he hpend hw,
    fun he hd => step_illegal he hpend hd, fun op he hd => step_reserved he hpend hd, fun i he hd ha => ?_,
    fun i _ hd _ => stepRunsTheDecodedCommand s w rest i hpend hd⟩, ?_, ?_, ?_, ?_, ?_⟩
  · subst hw
    exact step_clr hpend
  · rw [stepRunsTheDecodedCommand s w rest i hpend hd]
    exact exec_of_not_allowed he ha
  · simp [allowed]
  · intro op hop p
    obtain rfl | rfl : op = .keywr ∨ op = .keylen := by simpa using hop
    all_goals cases p <;> decide
  · intro p; cases p <;> decide
  · intro p; cases p <;> decide
  · intro p; cases p <;> decide

/-! ## Which errors a word raises (R181 to R184) -/

/-- The commands that some phase does not allow (R185). -/
theorem exists_not_allowed_iff {op : Op} :
    (∃ p, allowed op p = false) ↔ op ∈ [Op.keywr, .keylen, .ksastep, .xorb, .srd] := by
  cases op with
  | nop | clr | keyrd | ksainit | ksa => simp [allowed]
  | keywr | keylen => exact iff_of_true ⟨.ksa, rfl⟩ (by decide)
  | ksastep | xorb | srd => exact iff_of_true ⟨.idle, rfl⟩ (by decide)

/-- R182's table by the cause of each error: reserved bits, a phase that does not allow the command, KEYLEN's range, and the
two starts of a schedule with an empty key. -/
theorem mem_raisable_iff {op : Op} {c : ErrorCode} : c ∈ raisable op ↔
    c = .rsvdField ∨ (c = .phase ∧ ∃ p, allowed op p = false) ∨ (c = .klenRange ∧ op = .keylen) ∨
      (c = .emptyKey ∧ (op = .ksainit ∨ op = .ksa)) := by
  rw [exists_not_allowed_iff]
  cases op <;> cases c <;> decide

theorem ne_none_of_mem_raisable {op : Op} {c : ErrorCode} (h : c ∈ raisable op) : c ≠ .none := by
  rintro rfl
  simp [mem_raisable_iff] at h

/-- If the outcome `o` of a command run at `s` is a state with ERR = 1, it is `s` with one of the opcode's codes raised. -/
def RaisesOnly (op : Op) (s : State) (o : Host.Outcome State Fault Refusal) : Prop :=
  ∀ t, o = .next t → t.err = true → ∃ c ∈ raisable op, t = raiseError c s

section
variable {op : Op} {s : State}

theorem RaisesOnly.of_err {t : State} (ht : t.err = false) : RaisesOnly op s (.next t) := by
  rintro _ ⟨⟩ herr
  simp [ht] at herr

theorem RaisesOnly.raiseError {c : ErrorCode} (hc : c ∈ raisable op) : RaisesOnly op s (.next (raiseError c s)) := by
  rintro _ ⟨⟩ -
  exact ⟨c, hc, rfl⟩

theorem RaisesOnly.fault (r : Fault) : RaisesOnly op s (.fault r) := by
  rintro _ ⟨⟩

theorem RaisesOnly.ite {p : Prop} [Decidable p] {o o' : Host.Outcome State Fault Refusal} (h : RaisesOnly op s o)
    (h' : RaisesOnly op s o') : RaisesOnly op s (if p then o else o') := by
  split <;> assumption

/-- The checks before a command's rule raise E_PHASE alone, and only for an opcode that can (R185). -/
theorem RaisesOnly.guarded {rule : State → Host.Outcome State Fault Refusal} (hs : s.err = false)
    (h : RaisesOnly op s (rule s)) : RaisesOnly op s (guarded op rule s) := by
  cases ha : allowed op s.phase with
  | true => rwa [guarded_of_allowed hs ha]
  | false =>
    rw [guarded_of_not_allowed hs ha]
    exact .raiseError (mem_raisable_iff.mpr (.inr (.inl ⟨rfl, s.phase, ha⟩)))

end

/-- A command that ends in an error has raised one of its opcode's (R182), and done nothing else (R183). -/
theorem exec_raisesOnly {s : State} (hs : s.err = false) (i : Instr) : RaisesOnly i.op s (exec i s) := by
  cases i with
  | nop => rw [exec_nop]; exact .guarded hs (.of_err hs)
  | clr => rw [exec_clr]; exact .of_err (clear_err s)
  | keywr a d => rw [exec_keywr]; exact .guarded hs (.of_err hs)
  | keylen n => rw [exec_keylen]; exact .guarded hs (.ite (.of_err hs) (.raiseError (by simp [Instr.op, raisable])))
  | keyrd a => rw [exec_keyrd]; exact .guarded hs (.of_err hs)
  | ksainit => rw [exec_ksainit]; exact .guarded hs (.ite (.raiseError (by decide)) (.of_err hs))
  | ksastep => rw [exec_ksastep]; exact .guarded hs (.ite (.fault _) (.ite (.fault _) (.of_err ((ksaIter_err s).trans hs))))
  | ksa => rw [exec_ksa]; exact .guarded hs (.ite (.raiseError (by decide)) (.of_err ((ksaIters_err ..).trans hs)))
  | xorb d => rw [exec_xorb]; exact .guarded hs (.of_err hs)
  | srd a => rw [exec_srd]; exact .guarded hs (.of_err hs)

/-- A word with a legal opcode raises only what R182 lists for the opcode, and does nothing else (R183). -/
theorem runWord_raisesOnly {s : State} (hs : s.err = false) {w : Word} {op : Op} (hop : opField w = op.code) :
    RaisesOnly op s (runWord w s) := by
  cases hbit : hasReservedBit op w with
  | true =>
    rw [runWord_of_reserved (decode_of_reserved hop hbit), rejectWord_eq, hs]
    exact .raiseError (mem_raisable_iff.mpr (.inl rfl))
  | false =>
    have hd : decode w = .instr (op.instr w) := decode_of_and_mask (and_mask_eq_matchWord_iff.mpr ⟨hop, hbit⟩)
    rw [runWord_of_instr hd]
    simpa only [Op.op_instr] using exec_raisesOnly hs (op.instr w)

/-- A word with an illegal opcode raises E_ILLEGAL_OP (R76). -/
theorem runWord_of_illegalOpcode {s : State} (hs : s.err = false) {w : Word} (hop : ∀ op : Op, opField w ≠ op.code) :
    runWord w s = .next (raiseError .illegalOp s) := by
  rw [runWord_of_illegal (decode_of_illegal hop), rejectWord_eq, hs]
  rfl

/-- Settles O12: what a word raises is recorded over the state its event was taken from. -/
theorem errorsArePrecise : Obligations.ErrorsArePrecise := by
  intro s t w rest hs hpend hstep ht
  rw [step_write_cmd hpend] at hstep
  by_cases hop : ∃ op : Op, opField w = op.code
  · obtain ⟨op, hop⟩ := hop
    obtain ⟨c, hc, rfl⟩ := runWord_raisesOnly (s := s.setPending rest) hs hop t hstep ht
    exact ⟨ne_none_of_mem_raisable hc, rfl⟩
  · rw [runWord_of_illegalOpcode (s := s.setPending rest) hs (not_exists.mp hop)] at hstep
    cases hstep
    exact ⟨by simp, rfl⟩

/-! ## Each error of R182's table is raised -/

/-- A step from ERR = 0 that serves a word with this opcode raises the code `c`. -/
def CanRaise (op : Op) (c : ErrorCode) : Prop :=
  ∃ (s t : State) (w : Word) (rest : List HostEvent), s.err = false ∧ s.pending = .write 0#3 w :: rest ∧
    opField w = op.code ∧ step s = .next t ∧ t.err = true ∧ t.ecode = c

/-- A command that raises an error is one whose word, placed before the block, raises it. -/
theorem canRaise_of_exec {i : Instr} {s : State} {c : ErrorCode} (hs : s.err = false)
    (h : exec i s = .next (raiseError c s)) : CanRaise i.op c := by
  obtain ⟨hop, -⟩ := and_mask_eq_matchWord_iff.mp (encode_and_mask i)
  have hexec (es : List HostEvent) : exec i (s.setPending es) = .next ((raiseError c s).setPending es) := by
    rw [exec_setPending, h, mapNext_next]
  exact ⟨s.setPending [.write 0#3 (encode i)], _, encode i, [], hs, rfl, hop, step_command rfl (hexec _), rfl, rfl⟩

/-- Bit 9 is reserved in every format (R72). -/
theorem canRaise_rsvdField (op : Op) : CanRaise op .rsvdField := by
  have hop : opField (op.matchWord ||| 0x200#32) = op.code := by cases op <;> rfl
  have hbit : hasReservedBit op (op.matchWord ||| 0x200#32) = true := by cases op <;> rfl
  exact ⟨State.reset.setPending [.write 0#3 (op.matchWord ||| 0x200#32)], _, _, [], rfl, rfl, hop,
    step_reserved rfl rfl (decode_of_reserved hop hbit), rfl, rfl⟩

theorem canRaise_phase {op : Op} {p : Phase} (h : allowed op p = false) : CanRaise op .phase := by
  rw [← Op.op_instr op 0#32] at h ⊢
  exact canRaise_of_exec (s := State.reset.setPhase p) rfl (exec_of_not_allowed rfl h)

/-- Every code of R182's table is raised: a reserved bit, a phase that does not allow the command, KEYLEN of 257, and a
schedule started from reset, where the key is empty. -/
theorem canRaise_of_mem_raisable {op : Op} {c : ErrorCode} (h : c ∈ raisable op) : CanRaise op c := by
  obtain rfl | ⟨rfl, p, hp⟩ | ⟨rfl, rfl⟩ | ⟨rfl, rfl | rfl⟩ := mem_raisable_iff.mp h
  · exact canRaise_rsvdField op
  · exact canRaise_phase hp
  · exact canRaise_of_exec (i := .keylen 257#9) (s := .reset) rfl
      (exec_keylen_of_phase_ne_of_lt rfl (by decide) (by decide))
  · exact canRaise_of_exec (i := .ksainit) (s := .reset) rfl (exec_ksainit_of_klen_eq_zero rfl rfl)
  · exact canRaise_of_exec (i := .ksa) (s := .reset) rfl (exec_ksa_of_klen_eq_zero rfl rfl)

/-- Settles O13: a word raises only what the table lists for its opcode, and every entry of the table has its word. -/
theorem codesEachCommandCanRaise : Obligations.CodesEachCommandCanRaise := by
  refine ⟨fun op c => ⟨?_, canRaise_of_mem_raisable⟩, fun c => ⟨?_, ?_⟩⟩
  · rintro ⟨s, t, w, rest, hs, hpend, hop, hstep, ht, rfl⟩
    rw [step_write_cmd hpend] at hstep
    obtain ⟨c, hc, rfl⟩ := runWord_raisesOnly (s := s.setPending rest) hs hop t hstep ht
    exact hc
  · rintro ⟨s, t, w, rest, hs, hpend, hop, hstep, ht, rfl⟩
    rw [step_write_cmd hpend, runWord_of_illegalOpcode (s := s.setPending rest) hs hop] at hstep
    cases hstep
    rfl
  · rintro rfl
    have hop (op : Op) : opField 0x02000000#32 ≠ op.code := by cases op <;> decide
    exact ⟨State.reset.setPending [.write 0#3 0x02000000#32], _, _, [], rfl, rfl, hop,
      step_illegal rfl rfl (decode_of_illegal hop), rfl, rfl⟩

end Sys2Proof.Machine
end

section
/-! PROOFS. Reset and hazards (70_reset_and_hazards.md): the reset state and the reset input (R210, R211), and the commands and
port reads that leave the keystream alone (R216). -/

namespace Sys2Proof.Machine

/-! ## Reset (R210, R211) -/

/-- Settles O42: every register the port shows is 0 in the reset state, and ID is constant. -/
theorem resetStateAndItsPortReads : Obligations.ResetStateAndItsPortReads :=
  ⟨byteAt_zeroBytes, rfl, rfl, rfl, rfl, rfl, rfl, rfl, rfl, rfl, rfl, rfl, rfl, rfl, rfl, portRead_id .reset⟩

/-- Settles O43: serving the reset takes its event and writes every register with a reset value. -/
theorem resetInputGivesTheResetState : Obligations.ResetInputGivesTheResetState := fun s rest hpend =>
  ⟨hardReset (s.setPending rest), (step_event hpend).trans (serve_reset _), rfl, hardReset_eq _⟩

/-! ## What leaves the keystream alone (R216) -/

/-- Two states with the same keystream ahead of them: equal in all the registers XORB reads but ERR. -/
structure SameStream (s t : State) : Prop where
  S : t.S = s.S
  pi : t.pi = s.pi
  pj : t.pj = s.pj
  phase : t.phase = s.phase

/-- The commands that write S, PI, PJ or PHASE (R32) are none of these five. -/
theorem sameStream_of_exec {i : Instr} {s t : State} (hop : i.op ∈ [Op.nop, .keyrd, .srd, .keywr, .keylen])
    (h : exec i s = .next t) : SameStream s t := by
  have hother : i.op ∉ [Op.ksainit, .ksastep, .ksa, .xorb, .clr] :=
    (by decide : ∀ op ∈ [Op.nop, .keyrd, .srd, .keywr, .keylen], op ∉ [Op.ksainit, .ksastep, .ksa, .xorb, .clr]) _ hop
  have hkept {p : Prop} {writers : List Op} (hsub : writers ⊆ [Op.ksainit, .ksastep, .ksa, .xorb, .clr])
      (hwritten : ¬p → i.op ∈ writers) : p :=
    by_contra fun hne => hother (hsub (hwritten hne))
  obtain ⟨hS, -, -, -, hindices, hphase, -⟩ := onlyTheNamedCommandsWriteEachRegister i s t h
  exact ⟨hkept (by decide) hS, hkept (by decide) (hindices ∘ .inl), hkept (by decide) (hindices ∘ .inr),
    hkept (by decide) hphase⟩

/-- A port read takes its event and records its answer, and writes no register (R63). -/
theorem sameStream_of_step_read {s t : State} {a : PortAddr} {rest : List HostEvent} (hpend : s.pending = .read a :: rest)
    (h : step s = .next t) : SameStream s t := by
  rw [step_read hpend] at h
  cases h
  exact ⟨rfl, rfl, rfl, rfl⟩

theorem SameStream.prgaAdvance {s t : State} (h : SameStream s t) : SameStream (prgaAdvance s) (prgaAdvance t) := by
  obtain ⟨hS, hpi, hpj, hphase⟩ := h
  rw [prgaAdvance_eq, prgaAdvance_eq, hS, hpi, hpj]
  exact ⟨rfl, rfl, rfl, hphase⟩

theorem SameStream.keystreamByte {s t : State} (h : SameStream s t) : keystreamByte t = keystreamByte s := by
  rw [keystreamByte_eq, keystreamByte_eq, h.S, h.pi, h.pj]

/-- Settles O35: such a command or read leaves all that the XORB reads, and the XORB goes on from equal values. -/
theorem otherCommandsDoNotDisturbTheKeystream : Obligations.OtherCommandsDoNotDisturbTheKeystream := by
  intro s t d hs hp ht hbetween
  have hsame : SameStream s t := by
    obtain ⟨i, hop, hexec⟩ | ⟨a, rest, hpend, hstep⟩ := hbetween
    · exact sameStream_of_exec hop hexec
    · exact sameStream_of_step_read hpend hstep
  have hnext := hsame.prgaAdvance
  exact ⟨_, _, exec_xorb_of_stream hs hp d, exec_xorb_of_stream ht (hsame.phase.trans hp) d,
    congrArg (d ^^^ ·) hnext.keystreamByte, hnext.S, hnext.pi, hnext.pj, hnext.phase⟩

end Sys2Proof.Machine
end
